-- ==== Sys2Proof/Config.lean ====
section
/-! DEFINITION. The parameters of the Machine (`00_scope.md` rule R5). The rows that R5 marks as parameters are the
fields of `Config`, so that every operation, the step and the launch take them as arguments (a state carries them,
log entry 19); `Config.spec` is the spec's value of each. `N` is a launch value and `SEARCH_CEILING` the host's
(`Machine/Reproducer.lean`). No rule draws a free value (R7), so this file declares no opaque constant. -/

namespace Sys2Proof

/-- The parameters of one Machine, fixed for it (R5). -/
structure Config where
  /-- `REGW`: width of each of `A`, `B`, `C` (R10). -/
  REGW : Nat
  /-- `CELLW`: width of one tape cell (R31). -/
  CELLW : Nat
  /-- `STEP_CEILING`: the step count above which a run is fatal (R75). -/
  STEP_CEILING : Nat
  /-- `TAPE_CAP`: the largest tape a physical memory holds, none where there is no capacity (R5, R142). -/
  TAPE_CAP : Option Nat
deriving DecidableEq, Repr

/-- The value each parameter takes in the spec (R5; decisions D2, D4, D7, log entries 2, 4, 8). `TAPE_CAP` is open,
and a model that takes the tape as a finite list needs none. -/
def Config.spec : Config where
  REGW := 45
  CELLW := 4
  STEP_CEILING := 100000
  TAPE_CAP := none

/-- The bounds R5 puts on its parameters: `3 <= CELLW <= REGW`. -/
def Config.admitted (c : Config) : Bool := decide (3 ≤ c.CELLW ∧ c.CELLW ≤ c.REGW)

/-- `OUTW`: width of one output value, no parameter (R5, R19). -/
abbrev Config.outW : Nat := 3

/-- The least width that holds `n`. -/
def Config.widthOf (n : Nat) : Nat := if n = 0 then 0 else Nat.log2 n + 1

/-- `STEPW`: the least width that holds `STEP_CEILING + 1` (R5, R16, decision D16). -/
def Config.stepW (c : Config) : Nat := Config.widthOf (c.STEP_CEILING + 1)

/-- `PCW`: the least width that holds `max(N, 2^CELLW - 1)` (R5, R15, decision D15). -/
def Config.pcW (c : Config) (n : Nat) : Nat := Config.widthOf (max n (2 ^ c.CELLW - 1))

/-- `OUTCAP`: the number of entries the output stream buffer holds (R5, R20, decision D12). -/
def Config.outCap (c : Config) : Nat := c.STEP_CEILING + 1

end Sys2Proof
end

