-- ==== Sys2Proof/Word.lean ====
section
/-! DEFINITION. The word type of the output stream. Everything else the Machine holds is a natural number, because
the widths of registers and cells are parameters of the machine (R5): that a register stays below `2^REGW` and a cell
below `2^CELLW` is part of the invariant (R11, which allows this form; log entry 19). Nothing in the Machine is
signed (`00_scope.md` section 6). -/

namespace Sys2Proof

/-- One entry of the output stream: 3 bits (R19). -/
abbrev OutVal := BitVec Config.outW

end Sys2Proof
end

