-- ==== Sys2Proof/Syntax.lean ====
section
/-! DEFINITION. The instructions as syntax: one constructor per row of the opcode table (`30_encoding.md`
rule R52), with the operand in the form the opcode gives it (R53). -/

namespace Sys2Proof

/-- The three general registers (R10), as a combo operand names them (R55). -/
inductive Reg where
  | A
  | B
  | C
deriving DecidableEq, Repr

/-- A combo operand (R55): a literal 0 to 3, a register, or a cell value that has no resolution (7, and 8 or
more by R57), kept as the cell holds it. -/
inductive ComboOperand where
  | literal (v : BitVec 2)
  | register (r : Reg)
  | reserved (k : Nat)
deriving DecidableEq, Repr

/-- The eight instructions (R52). A combo operand is decoded to its form; a literal operand (`bxl`, `jnz`) and
the ignored operand of `bxc` are the cell itself (R53, R54). -/
inductive Instr where
  | adv (o : ComboOperand)
  | bxl (k : Nat)
  | bst (o : ComboOperand)
  | jnz (k : Nat)
  | bxc (k : Nat)
  | out (o : ComboOperand)
  | bdv (o : ComboOperand)
  | cdv (o : ComboOperand)
deriving DecidableEq, Repr

end Sys2Proof
end

