-- ==== Sys2Proof/WellFormed.lean ====
section
/-! DEFINITION. Which terms of `Instr` stand for a pair of tape cells, and which of those are legal
encodings (`30_encoding.md` rules R55 to R57). -/

namespace Sys2Proof

/-- The operand is the form of some cell: the `reserved` form stands only for the values 7 and above,
which have no resolution (R55, R57). -/
def ComboOperand.wellFormed : ComboOperand → Bool
  | .literal _ => true
  | .register _ => true
  | .reserved k => decide (7 ≤ k)

/-- The instruction is what some pair of cells decodes to. -/
def Instr.wellFormed : Instr → Bool
  | .adv o => o.wellFormed
  | .bxl _ => true
  | .bst o => o.wellFormed
  | .jnz _ => true
  | .bxc _ => true
  | .out o => o.wellFormed
  | .bdv o => o.wellFormed
  | .cdv o => o.wellFormed

/-- The operand has a resolution (R55). -/
def ComboOperand.legal : ComboOperand → Bool
  | .literal _ => true
  | .register _ => true
  | .reserved _ => false

/-- A legal encoding whose cells are both in 0 to 7, as in a well-formed program (R56, R62): a combo operand
is not reserved, a literal or ignored operand is at most 7. -/
def Instr.legal : Instr → Bool
  | .adv o => o.legal
  | .bxl k => decide (k ≤ 7)
  | .bst o => o.legal
  | .jnz k => decide (k ≤ 7)
  | .bxc k => decide (k ≤ 7)
  | .out o => o.legal
  | .bdv o => o.legal
  | .cdv o => o.legal

/-- The operand's cell is one of `w` bits (R31, R51). -/
def ComboOperand.fits (w : Nat) : ComboOperand → Bool
  | .literal _ => true
  | .register _ => true
  | .reserved k => decide (k < 2 ^ w)

/-- The instruction can stand on a tape whose cells are `w` bits wide, `3 <= w` (R31, R51). -/
def Instr.fits (w : Nat) : Instr → Bool
  | .adv o => o.fits w
  | .bxl k => decide (k < 2 ^ w)
  | .bst o => o.fits w
  | .jnz k => decide (k < 2 ^ w)
  | .bxc k => decide (k < 2 ^ w)
  | .out o => o.fits w
  | .bdv o => o.fits w
  | .cdv o => o.fits w

end Sys2Proof
end

