-- ==== Sys2Proof/Decode.lean ====
section
/-! DEFINITION. Decoding a pair of tape cells (opcode, operand) to an instruction, total on every pair
(`30_encoding.md` rules R50 to R57, `40_tick_and_operands.md` rule R79), and the encoder written from the same
table. Reserved combo operands are not the decoder's business (R79): it names them, and resolution faults. -/

namespace Sys2Proof

/-- Why the decoder rejects a pair: the opcode cell has no defined instruction (R121). -/
inductive DecodeReject where
  | invalidOpcode (op : Nat)
deriving DecidableEq, Repr

/-- The form of a combo operand cell (R55; 8 and above by R57, log entry 5). -/
def decodeCombo (k : Nat) : ComboOperand :=
  if k ≤ 3 then .literal (BitVec.ofNat 2 k)
  else if k = 4 then .register .A
  else if k = 5 then .register .B
  else if k = 6 then .register .C
  else .reserved k

/-- The decoder (R52, R53, R79): the opcode cell, all of it, selects the instruction. -/
def decode (op k : Nat) : Except DecodeReject Instr :=
  match op with
  | 0 => .ok (.adv (decodeCombo k))
  | 1 => .ok (.bxl k)
  | 2 => .ok (.bst (decodeCombo k))
  | 3 => .ok (.jnz k)
  | 4 => .ok (.bxc k)
  | 5 => .ok (.out (decodeCombo k))
  | 6 => .ok (.bdv (decodeCombo k))
  | 7 => .ok (.cdv (decodeCombo k))
  | _ => .error (.invalidOpcode op)

/-- The cell of a combo operand (R55). -/
def encodeCombo : ComboOperand → Nat
  | .literal v => v.toNat
  | .register .A => 4
  | .register .B => 5
  | .register .C => 6
  | .reserved k => k

/-- The two cells of an instruction, opcode first (R33, R50, R52). -/
def encode : Instr → Nat × Nat
  | .adv o => (0, encodeCombo o)
  | .bxl k => (1, k)
  | .bst o => (2, encodeCombo o)
  | .jnz k => (3, k)
  | .bxc k => (4, k)
  | .out o => (5, encodeCombo o)
  | .bdv o => (6, encodeCombo o)
  | .cdv o => (7, encodeCombo o)

/-- The mnemonic of the opcode table's row (R52). -/
def mnemonic : Instr → String
  | .adv _ => "adv"
  | .bxl _ => "bxl"
  | .bst _ => "bst"
  | .jnz _ => "jnz"
  | .bxc _ => "bxc"
  | .out _ => "out"
  | .bdv _ => "bdv"
  | .cdv _ => "cdv"

/-- One line of the spec's listing notation, the operand as the raw cell value in decimal (R60). -/
def listing (i : Instr) : String := mnemonic i ++ " " ++ toString (encode i).2

/-- The opcode cell a mnemonic of the notation stands for (R52, R60); there are no others (R61). -/
def opcodeOf (name : String) : Option Nat :=
  match name with
  | "adv" => some 0
  | "bxl" => some 1
  | "bst" => some 2
  | "jnz" => some 3
  | "bxc" => some 4
  | "out" => some 5
  | "bdv" => some 6
  | "cdv" => some 7
  | _ => none

/-- The cells of one listing line `<mnemonic> <k>` (R60). -/
def assemble (name : String) (k : Nat) : Option (Nat × Nat) := (opcodeOf name).map (fun op => (op, k))

/-- The packed word `iw = 8 * opcode + operand` of a pair of cells, a notation of the tables (R62). It packs
only cells that are both in 0 to 7. -/
def packWord (op k : Nat) : Option Nat :=
  if op ≤ 7 ∧ k ≤ 7 then some (8 * op + k) else none

/-- The cells of a packed word: `iw[5:3]` the opcode, `iw[2:0]` the operand (R62). -/
def unpackWord (iw : Nat) : Nat × Nat := (iw / 8 % 8, iw % 8)

/-- The instruction the decoder reads from a word numbered as `spec/opcode_table.json` numbers it, that is from
the packed form `iw` (R62, log entry 14). A word with a bit above bit 5 set packs no pair of cells. -/
def decodeTableWord (nbits w : Nat) : Option Instr :=
  let iw := w % 2 ^ nbits
  if iw < 64 then
    match decode (unpackWord iw).1 (unpackWord iw).2 with
    | .ok i => some i
    | .error _ => none
  else none

end Sys2Proof
end

