-- ==== Sys2Proof/Machine/State.lean ====
section
/-! DEFINITION. The state of the Machine (`10_state.md`): the registers, the program counter, the step counter,
the status and cause, the output stream, and, because the step is a function of the state alone, the tape of the run and
the machine's parameters. -/

namespace Sys2Proof.Machine

/-- The state of the execution control state machine (R17). Its 2-bit encoding is `statusCode`; the value 3 is
never produced. -/
inductive Status where
  | run
  | halted
  | faulted
deriving DecidableEq, Repr

/-- Which fault ended the run (R18). Its 2-bit encoding is `causeCode`. -/
inductive Cause where
  | none
  | invalidOpcode
  | reservedOperand
  | runawayExecution
deriving DecidableEq, Repr

/-- The state, every field under the spec's name. `TAPE` is a launch value that no step changes (R25); it stands
here because the step is a function of the state alone (log entry 6). -/
structure State where
  /-- General register `A`, `REGW` bits (R10, R11). -/
  A : Nat
  /-- General register `B`, `REGW` bits (R10, R11). -/
  B : Nat
  /-- General register `C`, `REGW` bits (R10, R11). -/
  C : Nat
  /-- Program counter: the tape index of the next opcode cell (R14), `PCW` bits; it never wraps (R15). -/
  pc : Nat
  /-- Step counter, `STEPW` bits: the instructions executed in this run (R16); it never wraps. -/
  STEPS : Nat
  /-- Execution control state (R17). -/
  STATUS : Status
  /-- Fault cause (R18). -/
  CAUSE : Cause
  /-- Output stream, oldest entry first (R19, R44). -/
  OUT : List OutVal
  /-- Program tape: cell `i` is the entry at position `i`, `N` is the length (R25, R30). -/
  TAPE : List Nat
  /-- The machine's parameters (R5), which no step changes: the model's own field (log entry 19). -/
  CFG : Config
deriving DecidableEq, Repr

/-- Why the Machine has no step. The faults of a program (R120) are not here: they are entered as the spec
describes, in a next state (R126). -/
inductive Fault where
  /-- Raised by `step` when the run has halted: there is no step until the next launch (R77, decision D10).
  Safe: the machine stops where the spec says it has no step. -/
  | noStepAfterHalt
  /-- Raised by `step` when the run has faulted with cause `c`: there is no step until the next launch (R77,
  R127, R136). Safe: the machine stops where the spec says it has no step. -/
  | noStepAfterFault (c : Cause)
deriving DecidableEq, Repr

/-- What the model gives no meaning. -/
inductive Refusal where
  /-- Raised by `exec` for an instruction that has no meaning yet; no instruction is left there. Safe. -/
  | notModelled (mnemonic : String)
  /-- Raised by `launch` for a tuple outside the bounds of R142, which the spec refuses. Safe. -/
  | launchNotAdmitted
deriving DecidableEq, Repr

/-- Launch, which is reset: every piece of state from the launch values (R24, R140). -/
def State.launched (cfg : Config) (tape : List Nat) (a0 b0 c0 : Nat) : State where
  A := a0
  B := b0
  C := c0
  pc := 0
  STEPS := 0
  STATUS := .run
  CAUSE := .none
  OUT := []
  TAPE := tape
  CFG := cfg

/-- The machine right after reset with nothing placed: at the spec's parameters, a launch of the empty tape with
`A0 = B0 = C0 = 0`. The spec takes these four from the host (R24), so their values here are a DESIGN CHOICE (log
entry 1). -/
def State.reset : State := State.launched Config.spec [] 0 0 0

end Sys2Proof.Machine
end

