-- ==== Sys2Proof/Machine/Flags.lean ====
section
/-! DEFINITION. The Machine has no flags and no condition codes (`10_state.md` rule R21). Its one condition is the
test of `A` that `jnz` makes (`43_jump.md` rule R100). -/

namespace Sys2Proof.Machine

/-- `A != 0`, on all bits of `A` (R100). -/
def aNonZero (s : State) : Bool := decide (s.A ≠ 0)

end Sys2Proof.Machine
end

