-- ==== Sys2Proof/Machine/Operands.lean ====
section
/-! DEFINITION. How an operand becomes a value (`30_encoding.md` rules R53 to R57) and the arithmetic on values
(`41_divide.md` rule R83, `42_xor_mod.md` rules R93, R94). The exclusive-or is `^^^` itself. -/

namespace Sys2Proof.Machine

/-- The current value of a register (R10, R73). No register is hard-wired (R13). -/
def readReg (s : State) : Reg → Nat
  | .A => s.A
  | .B => s.B
  | .C => s.C

/-- `Combo(k)` (R55): the value of a combo operand, none where it has no resolution and `ReservedOperand` is to
be raised. It writes nothing. -/
def comboValue (o : ComboOperand) (s : State) : Option Nat :=
  match o with
  | .literal v => some v.toNat
  | .register r => some (readReg s r)
  | .reserved _ => none

/-- A literal operand at register width: `zext_REGW(k)`, which keeps the value (R54). -/
def literalWord (k : Nat) : Nat := k

/-- A literal operand as a tape index: `zext_PCW(k)`, which keeps the value (R54). -/
def literalIndex (k : Nat) : Nat := k

/-- `a >> n = floor(a / 2^n)` for the full count `n` (R83, log entry 7). When `2^n > a`, that is when `n` is above the
top bit of `a`, the result is 0 whatever the size of `n`. -/
def shiftRight (a n : Nat) : Nat :=
  if a.log2 < n then 0 else a >>> n

/-- `v mod 8`, the low three bits, as a register value (R91, R93). -/
def mod8Word (v : Nat) : Nat := v % 8

/-- `v mod 8` as an output value: `v[2:0]` (R93, R110). -/
def mod8 (v : Nat) : OutVal := BitVec.ofNat Config.outW (mod8Word v)

end Sys2Proof.Machine
end

