-- ==== Sys2Proof/Machine/Ops.lean ====
section
/-! DEFINITION. The operations on the state that every instruction shares: register writes, the program counter
update, the append to `OUT`, halting, fault entry, the step count, and the read of the tape. -/

namespace Sys2Proof.Machine

/-- `A <- v` (only `adv`, R12). -/
def State.setA (s : State) (v : Nat) : State := { s with A := v }

/-- `B <- v` (only `bxl`, `bst`, `bxc`, `bdv`, R12). -/
def State.setB (s : State) (v : Nat) : State := { s with B := v }

/-- `C <- v` (only `cdv`, R12). -/
def State.setC (s : State) (v : Nat) : State := { s with C := v }

/-- `pc <- pc + 2`: past the opcode cell and the operand cell (R50, R74). -/
def State.advance (s : State) : State := { s with pc := s.pc + 2 }

/-- `pc <- target`: a jump that is taken; it is not advanced as well (R74, R100). -/
def State.jumpTo (s : State) (target : Nat) : State := { s with pc := target }

/-- `OutAppend(v)`: `OUT <- OUT ++ [v]` (R19, R110). -/
def State.outAppend (s : State) (v : OutVal) : State := { s with OUT := s.OUT ++ [v] }

/-- `halt`: the normal end of a run; nothing else changes (R71). -/
def State.halt (s : State) : State := { s with STATUS := .halted }

/-- `raise <Fault>`: fault entry (R126). The cause is recorded and the run is over; nothing is saved, there is no
handler, vector or mode change, and there is no return from a fault (R127): only a launch leaves it. -/
def State.raise (s : State) (c : Cause) : State := { s with CAUSE := c, STATUS := .faulted }

/-- The step count and the ceiling check (R75): `STEPS <- STEPS + 1`, then `RunawayExecution` if the count exceeds
the ceiling (log entry 8). -/
def State.countStep (s : State) (ceiling : Nat) : State :=
  if s.STEPS + 1 > ceiling then ({ s with STEPS := s.STEPS + 1 } : State).raise .runawayExecution
  else { s with STEPS := s.STEPS + 1 }

/-- The end of every executed instruction, after its effect and the program counter update (R70 part 6), at the
machine's own ceiling (R5). -/
def State.retire (s : State) : State := s.countStep s.CFG.STEP_CEILING

/-- Resolve a combo operand before anything is written (R70 part 4): run `effect` on its value, or raise
`ReservedOperand` from the state as it is (R122). -/
def withCombo (o : ComboOperand) (s : State) (effect : Nat → State) : State :=
  match comboValue o s with
  | some v => effect v
  | none => s.raise .reservedOperand

/-- `TAPE[i]`, the only memory read; indices at or beyond `N` hold nothing (R36). -/
def State.tapeAt (s : State) (i : Nat) : Option Nat := s.TAPE[i]?

/-- The fetch (R32, R33, R71): the pair at `pc`, opcode cell first, or none when no complete pair is there. -/
def State.fetch (s : State) : Option (Nat × Nat) :=
  match s.tapeAt s.pc, s.tapeAt (s.pc + 1) with
  | some op, some k => some (op, k)
  | _, _ => none

/-- The 2-bit encoding of `STATUS` (R17). -/
def statusCode : Status → BitVec 2
  | .run => 0
  | .halted => 1
  | .faulted => 2

/-- The 2-bit encoding of `CAUSE` (R18, R120). -/
def causeCode : Cause → BitVec 2
  | .none => 0
  | .invalidOpcode => 1
  | .reservedOperand => 2
  | .runawayExecution => 3

end Sys2Proof.Machine
end

