-- ==== Sys2Proof/Machine/Divide.lean ====
section
/-! DEFINITION. The divide-by-power-of-two instructions (`41_divide.md`). Every register read is of the state at the
start of the tick (R73). -/

namespace Sys2Proof.Machine

/-- `adv`: `A <- A >> Combo(k)` (R80). -/
def execAdv (o : ComboOperand) (s : State) : Host.Outcome State Fault Refusal :=
  .next (withCombo o s fun v => (s.setA (shiftRight s.A v)).advance.retire)

/-- `bdv`: `B <- A >> Combo(k)` (R81). -/
def execBdv (o : ComboOperand) (s : State) : Host.Outcome State Fault Refusal :=
  .next (withCombo o s fun v => (s.setB (shiftRight s.A v)).advance.retire)

/-- `cdv`: `C <- A >> Combo(k)` (R82). -/
def execCdv (o : ComboOperand) (s : State) : Host.Outcome State Fault Refusal :=
  .next (withCombo o s fun v => (s.setC (shiftRight s.A v)).advance.retire)

end Sys2Proof.Machine
end

