-- ==== Sys2Proof/Machine/Jump.lean ====
section
/-! DEFINITION. The control transfer (`43_jump.md`). -/

namespace Sys2Proof.Machine

/-- `jnz`: `if A != 0 then pc <- zext_PCW(k) else pc <- pc + 2` (R100). Nothing is checked at the jump. -/
def execJnz (k : Nat) (s : State) : Host.Outcome State Fault Refusal :=
  .next (if aNonZero s then s.jumpTo (literalIndex k) else s.advance).retire

end Sys2Proof.Machine
end

