-- ==== Sys2Proof/Machine/Output.lean ====
section
/-! DEFINITION. The output instruction (`44_output.md`). -/

namespace Sys2Proof.Machine

/-- `out`: append `Combo(k) mod 8` to `OUT` (R110). -/
def execOut (o : ComboOperand) (s : State) : Host.Outcome State Fault Refusal :=
  .next (withCombo o s fun v => (s.outAppend (mod8 v)).advance.retire)

end Sys2Proof.Machine
end

