-- ==== Sys2Proof/Machine/XorMod.lean ====
section
/-! DEFINITION. The exclusive-or and modulo-8 instructions (`42_xor_mod.md`). -/

namespace Sys2Proof.Machine

/-- `bxl`: `B <- B xor zext_REGW(k)` (R90). -/
def execBxl (k : Nat) (s : State) : Host.Outcome State Fault Refusal :=
  .next (s.setB (s.B ^^^ literalWord k)).advance.retire

/-- `bst`: `B <- Combo(k) mod 8` (R91). -/
def execBst (o : ComboOperand) (s : State) : Host.Outcome State Fault Refusal :=
  .next (withCombo o s fun v => (s.setB (mod8Word v)).advance.retire)

/-- `bxc`: `B <- B xor C`; the operand is fetched and ignored (R92). -/
def execBxc (_k : Nat) (s : State) : Host.Outcome State Fault Refusal :=
  .next (s.setB (s.B ^^^ s.C)).advance.retire

end Sys2Proof.Machine
end

