-- ==== Sys2Proof/Machine/Dispatch.lean ====
section
/-! DEFINITION. The dispatch: one arm per instruction (`40_tick_and_operands.md` rule R79). -/

namespace Sys2Proof.Machine

def exec (i : Instr) (s : State) : Host.Outcome State Fault Refusal :=
  match i with
  | .adv o => Sys2Proof.Machine.execAdv o s
  | .bxl k => Sys2Proof.Machine.execBxl k s
  | .bst o => Sys2Proof.Machine.execBst o s
  | .jnz k => Sys2Proof.Machine.execJnz k s
  | .bxc k => Sys2Proof.Machine.execBxc k s
  | .out o => Sys2Proof.Machine.execOut o s
  | .bdv o => Sys2Proof.Machine.execBdv o s
  | .cdv o => Sys2Proof.Machine.execCdv o s

end Sys2Proof.Machine
end

