-- ==== Sys2Proof/Machine/Tick.lean ====
section
/-! DEFINITION. The tick (`40_tick_and_operands.md` rule R70) and the placing of one instruction where it is
fetched. -/

namespace Sys2Proof.Machine

/-- One tick of a running machine (R70 to R72): halt when no complete pair is at `pc`; fault on an opcode cell with
no instruction, before anything is written; otherwise execute the instruction. -/
def tick (s : State) : Host.Outcome State Fault Refusal :=
  match s.fetch with
  | none => .next s.halt
  | some (op, k) =>
    match decode op k with
    | .error (.invalidOpcode _) => .next (s.raise .invalidOpcode)
    | .ok i => exec i s

/-- The attempt of a step, by the execution control state (R17, R77): only a running machine ticks. -/
def stepByStatus (s : State) : Host.Outcome State Fault Refusal :=
  match s.STATUS with
  | .run => tick s
  | .halted => .fault .noStepAfterHalt
  | .faulted => .fault (.noStepAfterFault s.CAUSE)

/-- The tape with the pair `(op, k)` at indices `i` and `i + 1`, every other cell kept; cells that must come to
exist below `i` are 0. -/
def placePair (tape : List Nat) (i : Nat) (op k : Nat) : List Nat :=
  tape.take i ++ List.replicate (i - tape.length) 0 ++ op :: k :: tape.drop (i + 2)

end Sys2Proof.Machine
end

