-- ==== Sys2Proof/Machine/Step.lean ====
section
/-! DEFINITION. The step of the machine, and the state in which the next step runs a given instruction. -/

namespace Sys2Proof.Machine

/-- One step (R70, R77). -/
def step (s : State) : Host.Outcome State Fault Refusal := stepByStatus s

/-- `s` with the instruction of the packed word `w` (R62) placed on the tape at `pc` and the run in progress, so
that the next step fetches and runs it. It stands for the host's load of a program at launch (log entry 13). -/
def State.withFetchWord (s : State) (nbits w : Nat) : State :=
  { s with
    TAPE := placePair s.TAPE s.pc (unpackWord (w % 2 ^ nbits)).1 (unpackWord (w % 2 ^ nbits)).2
    STATUS := .run }

end Sys2Proof.Machine
end

