-- ==== Sys2Proof/Machine/Launch.lean ====
section
/-! DEFINITION. Launch as the host performs it (`70_reset_and_hazards.md` rules R140 to R142): the tuple with the
document's types, the bounds within which it is admitted, and the refusal outside them. -/

namespace Sys2Proof.Machine

/-- The launch tuple `(A0, B0, C0, program)` with the document's types (R140). -/
structure LaunchTuple where
  A0 : Int
  B0 : Int
  C0 : Int
  program : List Nat
deriving DecidableEq, Repr

/-- A launch value of a register is admitted: `0 <= v < 2^REGW` (R142). -/
def regAdmitted (cfg : Config) (v : Int) : Bool := decide (0 ≤ v ∧ v.toNat < 2 ^ cfg.REGW)

/-- The tape is admitted: every cell below `2^CELLW`, and `N <= TAPE_CAP` where a capacity exists (R142). Odd lengths
and the empty tape are. -/
def tapeAdmitted (cfg : Config) (tape : List Nat) : Bool :=
  tape.all (fun c => decide (c < 2 ^ cfg.CELLW)) && cfg.TAPE_CAP.all (fun cap => decide (tape.length ≤ cap))

/-- The bounds of R142, for a machine whose parameters are within those of R5. -/
def launchAdmitted (cfg : Config) (l : LaunchTuple) : Bool :=
  cfg.admitted && regAdmitted cfg l.A0 && regAdmitted cfg l.B0 && regAdmitted cfg l.C0 && tapeAdmitted cfg l.program

/-- The launch of a machine with the given parameters (R5, R140); a tuple outside the bounds is refused and given no
meaning (R142, log entry 3). -/
def launch (cfg : Config) (l : LaunchTuple) : Host.Outcome State Fault Refusal :=
  if launchAdmitted cfg l then .next (State.launched cfg l.program l.A0.toNat l.B0.toNat l.C0.toNat)
  else .refused .launchNotAdmitted

end Sys2Proof.Machine
end

