-- ==== Sys2Proof/Machine/Run.lean ====
section
/-! DEFINITION. Run-to-completion (`40_tick_and_operands.md` rule R76) and what the host gets back at the end of a
run (`70_reset_and_hazards.md` rules R145, R146, `60_exceptions.md` rule R126). -/

namespace Sys2Proof.Machine

/-- At most `n` ticks, stopping where the machine has no step. -/
def runFor : Nat → State → State
  | 0, s => s
  | n + 1, s =>
    match step s with
    | .next t => runFor n t
    | .fault _ => s
    | .refused _ => s

/-- As many ticks as any run takes: `STEP_CEILING + 1` that execute an instruction and one that halts (R76). -/
def runTicks (cfg : Config) : Nat := cfg.STEP_CEILING + 2

/-- `Run()`: tick while the machine runs (R76). -/
def run (s : State) : State := runFor (runTicks s.CFG) s

/-- The product of an ended run: the output stream of a halted one, the fault of a faulted one (R145). -/
inductive HostResult where
  | output (vs : List OutVal)
  | fault (c : Cause)
deriving DecidableEq, Repr

/-- What the host may see (R126, R145, R146): nothing while the machine runs, `OUT` after a normal halt, the cause
alone after a fault. The registers, `pc` and `STEPS` are never shown. -/
def hostResult (s : State) : Option HostResult :=
  match s.STATUS with
  | .run => none
  | .halted => some (.output s.OUT)
  | .faulted => some (.fault s.CAUSE)

end Sys2Proof.Machine
end

