-- ==== Sys2Proof/Machine/Reproducer.lean ====
section
/-! DEFINITION. The host-side search of `70_reset_and_hazards.md` section 5 (rules R150 to R156), which `00_scope.md`
rule R4 leaves out of the block. It is a user of the Machine and no part of its step; it is kept as the spec keeps
it, for the reader who models the host. The points the spec leaves open are arguments (decision D17). -/

namespace Sys2Proof.Machine

/-- `SEARCH_ON_FAULT`: what a candidate whose run faults does to the search (R155, U8). -/
inductive OnFault where
  | abort
  | mismatch
deriving DecidableEq, Repr

/-- The open parameters of the search (D17). -/
structure SearchParams where
  /-- `SEARCH_CEILING` (R154). -/
  ceiling : Nat
  /-- `SEARCH_ON_FAULT` (R155). -/
  onFault : OnFault
  /-- `SEARCH_BASE_LEN` is 0 when this holds, 1 otherwise (R152). -/
  emptyBase : Bool
deriving DecidableEq, Repr

/-- How a search ends. `candidateRefused`: a candidate beyond the launch bounds of R142 (log entry 16). -/
inductive SearchResult where
  | found (a : Nat)
  | noSolutionFound
  | candidateFault (c : Cause)
  | candidateRefused
deriving DecidableEq, Repr

/-- One candidate: a fresh launch of the full program run to completion (R152, R156); none when the launch is
refused. -/
def candidateResult (cfg : Config) (program : List Nat) (b0 c0 : Int) (a : Nat) : Option HostResult :=
  match launch cfg { A0 := a, B0 := b0, C0 := c0, program := program } with
  | .next s => hostResult (run s)
  | .fault _ => none
  | .refused _ => none

/-- The brute force of one level (R152): candidates `a, a + 1, …`, at most `fuel` of them, until the output equals
`suffix`. `candidate a` is what the run of candidate `a` gives. -/
def tryFrom (candidate : Nat → Option HostResult) (p : SearchParams) (suffix : List Nat) : Nat → Nat → SearchResult
  | 0, _ => .noSolutionFound
  | fuel + 1, a =>
    match candidate a with
    | none => .candidateRefused
    | some (.output vs) =>
      if vs.map BitVec.toNat = suffix then .found a else tryFrom candidate p suffix fuel (a + 1)
    | some (.fault c) =>
      match p.onFault with
      | .abort => .candidateFault c
      | .mismatch => tryFrom candidate p suffix fuel (a + 1)

/-- `solve(suffix)` (R152): from the shortest suffix outward, each base one base-8 digit above the last answer. -/
def solve (candidate : Nat → Option HostResult) (p : SearchParams) : List Nat → SearchResult
  | [] => tryFrom candidate p [] p.ceiling 0
  | x :: rest =>
    if rest = [] ∧ p.emptyBase = false then tryFrom candidate p (x :: rest) p.ceiling 0
    else
      match solve candidate p rest with
      | .found a => tryFrom candidate p (x :: rest) p.ceiling (a * 8)
      | .noSolutionFound => .noSolutionFound
      | .candidateFault c => .candidateFault c
      | .candidateRefused => .candidateRefused

/-- The Reproducer (R150): the search for the whole program, every candidate a fresh run of the full program. -/
def reproduce (cfg : Config) (p : SearchParams) (program : List Nat) (b0 c0 : Int) : SearchResult :=
  solve (candidateResult cfg program b0 c0) p program

end Sys2Proof.Machine
end

