-- ==== Sys2Proof/Safety.lean ====
section
/-! DEFINITION. What the spec says of every reachable state, as one invariant, and what a successful run is, and
the registers each instruction may read and write (`10_state.md` rule R12). -/

namespace Sys2Proof.Machine

/-- The pair of cells the machine stands at. -/
def State.pairAt (s : State) (op k : Nat) : Prop := s.TAPE[s.pc]? = some op ∧ s.TAPE[s.pc + 1]? = some k

/-- The facts the rules give of the state at every tick boundary. -/
structure State.Inv (s : State) : Prop where
  /-- The parameters are within the bounds of R5: `3 <= CELLW <= REGW`. -/
  cfg_ok : 3 ≤ s.CFG.CELLW ∧ s.CFG.CELLW ≤ s.CFG.REGW
  /-- Each register is `REGW` bits (R10, R11). -/
  reg_lt : ∀ r : Reg, readReg s r < 2 ^ s.CFG.REGW
  /-- Each cell is `CELLW` bits (R31). -/
  cell_lt : ∀ c ∈ s.TAPE, c < 2 ^ s.CFG.CELLW
  /-- `CAUSE` is `NONE` exactly while the run has not faulted (R18). -/
  cause_none : s.CAUSE = .none ↔ s.STATUS ≠ .faulted
  /-- A run that has not faulted has executed at most `STEP_CEILING` instructions (R75). -/
  steps_le : s.STATUS ≠ .faulted → s.STEPS ≤ s.CFG.STEP_CEILING
  /-- A decode fault is not counted (R16). -/
  steps_decode_fault : s.CAUSE = .invalidOpcode ∨ s.CAUSE = .reservedOperand → s.STEPS ≤ s.CFG.STEP_CEILING
  /-- `RunawayExecution` comes with the count `STEP_CEILING + 1` (R16, R120). -/
  steps_runaway : s.CAUSE = .runawayExecution → s.STEPS = s.CFG.STEP_CEILING + 1
  /-- `OUT` has at most one entry per executed instruction (R20). -/
  out_le : s.OUT.length ≤ s.STEPS
  /-- The range of `pc` (R15). -/
  pc_le : s.pc ≤ max s.TAPE.length (2 ^ s.CFG.CELLW - 1)
  /-- A halted run stands where no complete pair is (R71). -/
  halted_at_end : s.STATUS = .halted → s.TAPE.length ≤ s.pc + 1
  /-- After `InvalidOpcode`, `pc` indexes the offending opcode cell (R120). -/
  invalid_at_pc : s.CAUSE = .invalidOpcode → ∃ op k, s.pairAt op k ∧ 8 ≤ op
  /-- After `ReservedOperand`, `pc` indexes the instruction (R120): a combo opcode with operand 7 or more. -/
  reserved_at_pc : s.CAUSE = .reservedOperand → ∃ op k, s.pairAt op k ∧ op ∈ [0, 2, 5, 6, 7] ∧ 7 ≤ k

/-- A run that has not ended in a fault; only of such a run may a claim about `OUT` be made (R126, R129). -/
def State.safe (s : State) : Bool := decide (s.STATUS ≠ .faulted)

/-- Every cell of the tape is in 0 to 7, as the parser delivers a well-formed program (R31). -/
def tapeWellFormed (tape : List Nat) : Bool := tape.all (fun c => decide (c ≤ 7))

/-- The state with one register replaced by `x`. -/
def withReg (s : State) (r : Reg) (x : Nat) : State :=
  match r with
  | .A => { s with A := x }
  | .B => { s with B := x }
  | .C => { s with C := x }

/-- The registers an instruction reads, as R12 lists them. -/
def readsReg (i : Instr) (r : Reg) : Bool :=
  match i with
  | .adv o => decide (r = .A) || decide (o = .register r)
  | .bxl _ => decide (r = .B)
  | .bst o => decide (o = .register r)
  | .jnz _ => decide (r = .A)
  | .bxc _ => decide (r = .B) || decide (r = .C)
  | .out o => decide (o = .register r)
  | .bdv o => decide (r = .A) || decide (o = .register r)
  | .cdv o => decide (r = .A) || decide (o = .register r)

/-- The registers an instruction writes, as R12 lists them. -/
def writesReg (i : Instr) (r : Reg) : Bool :=
  match i with
  | .adv _ => decide (r = .A)
  | .bxl _ => decide (r = .B)
  | .bst _ => decide (r = .B)
  | .jnz _ => false
  | .bxc _ => decide (r = .B)
  | .out _ => false
  | .bdv _ => decide (r = .B)
  | .cdv _ => decide (r = .C)

end Sys2Proof.Machine
end

