-- ==== Sys2Proof/Certificates/Slice0/Obligations.lean ====
section
/-! DEFINITION. The statements for the provers. Each docstring names the rule or section of `spec/` it formalises
and, where it rests on a choice, whose choice that is. The parameters of R5 stand as the machine's own, `s.CFG` or the
`cfg` of a launch: every statement holds of every admitted value of them. -/

open Sys2Proof Sys2Proof.Machine

/-! ### Encoding -/

/-- For every instruction that stands for a pair of cells, the decoder reads the encoder's two cells back to it, with
every operand at every value a cell admits; and where it fits the cell width, so do both cells (`30_encoding.md`
sections 1 to 3; opcode values 1, 2, 4, 6, 7 are the spec's decision D1, the model's log entry 12, operand cells of 8
and above its decision D5, the model's log entry 5). -/
def Obligations.DecodeReadsBackEveryEncoding : Prop :=
  ∀ i : Instr, i.wellFormed = true → decode (encode i).1 (encode i).2 = .ok i ∧
    ∀ w : Nat, 3 ≤ w → i.fits w = true → (encode i).1 < 2 ^ w ∧ (encode i).2 < 2 ^ w

/-- No bit of either cell is dropped: a decoded instruction is well formed, encodes to the very pair it came from, and
fits every cell width that its operand cell fits (`30_encoding.md` sections 1 to 3). -/
def Obligations.EncodeRestoresBothDecodedCells : Prop :=
  ∀ (op k : Nat) (i : Instr), decode op k = .ok i → i.wellFormed = true ∧ encode i = (op, k) ∧
    ∀ w : Nat, k < 2 ^ w → i.fits w = true

/-- Every opcode cell value leads to one behaviour: 0 to 7 to the eight instructions in the table's order, with the
operand form of each, 8 and above to the verdict invalid-opcode, whatever the operand cell (`30_encoding.md`
section 2, `40_tick_and_operands.md` section 2; the order is the spec's decision D1 for 1, 2, 4, 6, 7, the
model's log entry 12). -/
def Obligations.OpcodeCellSelectsTheInstruction : Prop :=
  ∀ k : Nat,
    decode 0 k = .ok (.adv (decodeCombo k)) ∧ decode 1 k = .ok (.bxl k) ∧ decode 2 k = .ok (.bst (decodeCombo k)) ∧
    decode 3 k = .ok (.jnz k) ∧ decode 4 k = .ok (.bxc k) ∧ decode 5 k = .ok (.out (decodeCombo k)) ∧
    decode 6 k = .ok (.bdv (decodeCombo k)) ∧ decode 7 k = .ok (.cdv (decodeCombo k)) ∧
    ∀ op : Nat, 8 ≤ op → decode op k = .error (.invalidOpcode op)

/-- Packed words written out bit by bit from the opcode table (`iw[5:3]` opcode, `iw[2:0]` operand; `30_encoding.md`
section 1) decode to the instructions they stand for, one of each row and one reserved operand. That opcode values 1,
2, 4, 6 and 7 are `bxl`, `bst`, `bxc`, `bdv` and `cdv` is deduced from the table's row order (the spec's decision D1,
the model's log entry 12), and that `decodeTableWord` numbers the bits of a word as the packed form does is deduced
too (log entry 14): both are the model's readings, not the source's words. -/
def Obligations.WrittenWordsDecodeAsTheTableSays : Prop :=
  decodeTableWord 8 0b000001 = some (.adv (.literal 1)) ∧
  decodeTableWord 8 0b001111 = some (.bxl 7) ∧
  decodeTableWord 8 0b010110 = some (.bst (.register .C)) ∧
  decodeTableWord 8 0b011000 = some (.jnz 0) ∧
  decodeTableWord 8 0b100111 = some (.bxc 7) ∧
  decodeTableWord 8 0b101100 = some (.out (.register .A)) ∧
  decodeTableWord 8 0b110101 = some (.bdv (.register .B)) ∧
  decodeTableWord 8 0b111011 = some (.cdv (.literal 3)) ∧
  decodeTableWord 8 0b000111 = some (.adv (.reserved 7))

/-- Of the 64 packed words all decode, 59 to a legal instruction, and exactly the five words 000111, 010111, 101111,
110111 and 111111 to one whose operand is reserved (`30_encoding.md` section 4). -/
def Obligations.FiftyNinePackedWordsAreLegal : Prop :=
  (∀ iw : Fin 64, (decodeTableWord 8 iw.val).isSome = true) ∧
  ((List.range 64).filter fun iw => (decodeTableWord 8 iw).any Instr.legal).length = 59 ∧
  ((List.range 64).filter fun iw => (decodeTableWord 8 iw).any fun i => !i.legal) =
    [0b000111, 0b010111, 0b101111, 0b110111, 0b111111]

/-- The 2-bit codes of `STATUS` and `CAUSE` (`10_state.md` section 3; the numbers are the spec's decisions D8 and
D9, the model's log entry 9). -/
def Obligations.StatusAndCauseHaveTheSpecsCodes : Prop :=
  statusCode .run = 0 ∧ statusCode .halted = 1 ∧ statusCode .faulted = 2 ∧
  causeCode .none = 0 ∧ causeCode .invalidOpcode = 1 ∧ causeCode .reservedOperand = 2 ∧
  causeCode .runawayExecution = 3

/-! ### Launch and reset -/

/-- A launch within the bounds sets every piece of state, for every machine whose parameters are those R5 admits (`3
<= CELLW <= REGW`): registers below `2^REGW`, cells below `2^CELLW`, and no more cells than a tape memory of limited
capacity holds (`70_reset_and_hazards.md` section 1, `10_state.md` section 7, `00_scope.md` section 3; launch as one
event is the spec's decision D11; that a state carries its parameters is the model's choice, log entry 19). -/
def Obligations.LaunchSetsEveryPieceOfState : Prop :=
  ∀ (cfg : Config) (a b c : Nat) (tape : List Nat), 3 ≤ cfg.CELLW → cfg.CELLW ≤ cfg.REGW →
    a < 2 ^ cfg.REGW → b < 2 ^ cfg.REGW → c < 2 ^ cfg.REGW → (∀ x ∈ tape, x < 2 ^ cfg.CELLW) →
    (∀ cap : Nat, cfg.TAPE_CAP = some cap → tape.length ≤ cap) →
    launch cfg { A0 := a, B0 := b, C0 := c, program := tape } =
      .next { A := a, B := b, C := c, pc := 0, STEPS := 0, STATUS := .run, CAUSE := .none, OUT := [], TAPE := tape,
              CFG := cfg }

/-- A launch with a negative register value, one of `2^REGW` or more, a cell of `2^CELLW` or more, or more cells than
the tape memory holds is refused (`70_reset_and_hazards.md` section 1; the refusal is the spec's decision D3, the
model's log entry 3); so is every launch of a machine whose parameters break `3 <= CELLW <= REGW` (`00_scope.md`
section 3; the form of that refusal is the model's choice, log entry 19). -/
def Obligations.LaunchOutsideTheBoundsIsRefused : Prop :=
  ∀ (cfg : Config) (l : LaunchTuple),
    (l.A0 < 0 ∨ 2 ^ cfg.REGW ≤ l.A0 ∨ l.B0 < 0 ∨ 2 ^ cfg.REGW ≤ l.B0 ∨ l.C0 < 0 ∨ 2 ^ cfg.REGW ≤ l.C0 ∨
      (∃ c ∈ l.program, 2 ^ cfg.CELLW ≤ c) ∨ (∃ cap : Nat, cfg.TAPE_CAP = some cap ∧ cap < l.program.length) ∨
      cfg.CELLW < 3 ∨ cfg.REGW < cfg.CELLW) →
    launch cfg l = .refused .launchNotAdmitted

/-- Right after reset `pc` and `STEPS` are 0, the machine runs, there is no cause and no output (`10_state.md`
section 7); the launch values and the parameters are inputs, and that in this one reset state the registers are 0, the
tape empty and the parameters at the spec's own values is the model's choice (log entries 1 and 19). -/
def Obligations.ResetIsTheLaunchOfAnEmptyTape : Prop :=
  State.reset.pc = 0 ∧ State.reset.STEPS = 0 ∧ State.reset.STATUS = .run ∧ State.reset.CAUSE = .none ∧
  State.reset.OUT = [] ∧ State.reset.A = 0 ∧ State.reset.B = 0 ∧ State.reset.C = 0 ∧ State.reset.TAPE = [] ∧
  State.reset.CFG = { REGW := 45, CELLW := 4, STEP_CEILING := 100000, TAPE_CAP := none }

/-- The invariant holds right after reset, and after every launch that is admitted, whatever the parameters. -/
def Obligations.LaunchedStatesMeetTheInvariant : Prop :=
  State.reset.Inv ∧ ∀ (cfg : Config) (l : LaunchTuple) (s : State), launch cfg l = .next s → s.Inv

/-! ### The tick -/

/-- Every step keeps the invariant, for every admitted value of the parameters: each register stays below `2^REGW` and
each cell below `2^CELLW`, `CAUSE` is `NONE` exactly while the run has not faulted, the step count stays within the
ceiling (one above it exactly after `RunawayExecution`), `OUT` has at most one entry per executed instruction, `pc`
stays within `max(N, 2^CELLW - 1)`, a halted machine stands where no pair is, and after a decode fault `pc` still
indexes the offending pair (`10_state.md` rules R11, R15 to R20, `60_exceptions.md` rule R120; R11, R15, R20 are the
spec's own inferences, D7 to D9 its decisions). -/
def Obligations.StepKeepsTheInvariant : Prop :=
  ∀ s t : State, s.Inv → step s = .next t → t.Inv

/-- Every run ends, within `STEP_CEILING + 2` ticks, from every state that meets the invariant, and it ends in
exactly one of the four ways: halted without a cause, or faulted with one of the three causes
(`40_tick_and_operands.md` section 2; the ceiling comparison is the spec's decision D7). -/
def Obligations.EveryRunEndsInOneOfFourWays : Prop :=
  ∀ s : State, s.Inv →
    ((run s).STATUS = .halted ∧ (run s).CAUSE = .none) ∨
    ((run s).STATUS = .faulted ∧
      ((run s).CAUSE = .invalidOpcode ∨ (run s).CAUSE = .reservedOperand ∨ (run s).CAUSE = .runawayExecution))

/-- The halt check (R71): a running machine with no complete pair at `pc` halts and changes nothing else, whatever
the count; with a complete pair it does not halt. -/
def Obligations.HaltCheckComesFirstAndChangesNothingElse : Prop :=
  ∀ s : State, s.STATUS = .run →
    (s.pc + 1 ≥ s.TAPE.length → step s = .next { s with STATUS := .halted }) ∧
    (s.pc + 1 < s.TAPE.length → ∀ t, step s = .next t → t.STATUS ≠ .halted)

/-- A step runs the decoded instruction: when the pair of cells at `pc`, even or odd, decodes to `i`, the step of a
running machine is `exec i` of the state as it is; nothing is added around it (`40_tick_and_operands.md` section 1,
`20_memory.md` section 2). -/
def Obligations.StepRunsTheDecodedInstruction : Prop :=
  ∀ (s : State) (op k : Nat) (i : Instr), s.STATUS = .run → s.TAPE[s.pc]? = some op → s.TAPE[s.pc + 1]? = some k →
    decode op k = .ok i → step s = exec i s

/-- `InvalidOpcode` (R121): raised, with no other change, when the opcode cell at `pc` of a complete pair is 8 or
more, whatever the operand cell; and raised in no other case. -/
def Obligations.InvalidOpcodeExactlyOnAnOpcodeCellOfEightOrMore : Prop :=
  ∀ s : State, s.STATUS = .run →
    (∀ op k : Nat, s.TAPE[s.pc]? = some op → s.TAPE[s.pc + 1]? = some k → 8 ≤ op →
      step s = .next { s with CAUSE := .invalidOpcode, STATUS := .faulted }) ∧
    (∀ t : State, s.CAUSE ≠ .invalidOpcode → step s = .next t → t.CAUSE = .invalidOpcode →
      ∃ op k : Nat, s.TAPE[s.pc]? = some op ∧ s.TAPE[s.pc + 1]? = some k ∧ 8 ≤ op)

/-- The checks of a tick in their order (`40_tick_and_operands.md` section 1 and `60_exceptions.md` section 2, an
inference the spec marks as its own): the halt check, then `InvalidOpcode` (with operand 7 too), then
`ReservedOperand` (uncounted, at the ceiling too), then, after the effect and the count, `RunawayExecution`; otherwise
the run goes on. That operand cells of 8 and above are reserved is the spec's decision D5, the comparison at the
ceiling its decision D7 (log entries 5 and 8). -/
def Obligations.TickChecksComeInTheSpecsOrder : Prop :=
  ∀ s t : State, s.STATUS = .run → s.CAUSE = .none → step s = .next t →
    (s.pc + 1 ≥ s.TAPE.length → t.STATUS = .halted ∧ t.CAUSE = .none ∧ t.STEPS = s.STEPS) ∧
    (∀ op k : Nat, s.TAPE[s.pc]? = some op → s.TAPE[s.pc + 1]? = some k →
      if 8 ≤ op then t.STATUS = .faulted ∧ t.CAUSE = .invalidOpcode ∧ t.STEPS = s.STEPS
      else if op ∈ [0, 2, 5, 6, 7] ∧ 7 ≤ k then
        t.STATUS = .faulted ∧ t.CAUSE = .reservedOperand ∧ t.STEPS = s.STEPS
      else if s.CFG.STEP_CEILING ≤ s.STEPS then
        t.STATUS = .faulted ∧ t.CAUSE = .runawayExecution ∧ t.STEPS = s.STEPS + 1
      else t.STATUS = .run ∧ t.CAUSE = .none ∧ t.STEPS = s.STEPS + 1)

/-- A running machine always has a next state; no program and no data stop it otherwise than as the rules say
(`40_tick_and_operands.md` section 1). -/
def Obligations.RunningMachineAlwaysHasANextState : Prop :=
  ∀ s : State, s.STATUS = .run → ∃ t, step s = .next t

/-- A machine whose run has ended has no step, and stays as it is however often it is ticked, a fault included
(`40_tick_and_operands.md` section 2, `60_exceptions.md` section 3; that there is no step is the spec's decision D10,
the model's log entry 10). -/
def Obligations.NoStepAfterTheRunHasEnded : Prop :=
  ∀ s : State,
    (s.STATUS = .halted → step s = .fault .noStepAfterHalt) ∧
    (s.STATUS = .faulted → step s = .fault (.noStepAfterFault s.CAUSE)) ∧
    (s.STATUS ≠ .run → ∀ n, runFor n s = s)

/-- The step reads no cell but the two at `pc`, and none where no complete pair is (`20_memory.md` section 2): on any
other tape with the same two cells there the step does the same; and where no complete pair is, on any other tape
without one, a different lone last cell included. -/
def Obligations.StepReadsNoCellButTheFetchedPair : Prop :=
  ∀ (s t : State) (tape : List Nat),
    ((tape[s.pc]? = s.TAPE[s.pc]? ∧ tape[s.pc + 1]? = s.TAPE[s.pc + 1]?) ∨
      (s.pc + 1 ≥ s.TAPE.length ∧ s.pc + 1 ≥ tape.length)) →
    step s = .next t → step { s with TAPE := tape } = .next { t with TAPE := tape }

/-- No tick changes a cell of the tape: every fetch of an index in one run returns the launch value (R41). -/
def Obligations.EveryFetchReturnsTheLaunchValue : Prop :=
  ∀ (n : Nat) (s : State) (i : Nat), (runFor n s).TAPE[i]? = s.TAPE[i]?

/-- On a tape with every cell in 0 to 7 no run raises `InvalidOpcode` (`30_encoding.md` section 4, `20_memory.md`
section 1). -/
def Obligations.WellFormedTapeNeverRaisesInvalidOpcode : Prop :=
  ∀ (n : Nat) (s : State), tapeWellFormed s.TAPE = true → s.CAUSE ≠ .invalidOpcode →
    (runFor n s).CAUSE ≠ .invalidOpcode

/-! ### Operands -/

/-- The value of a combo operand cell (`30_encoding.md` section 3): 0 to 3 itself, 4, 5, 6 the current `A`, `B`, `C`,
7 none; that 8 and above have none is the spec's decision D5, the model's log entry 5. -/
def Obligations.ComboOperandResolvesAsTheSpecSays : Prop :=
  ∀ (k : Nat) (s : State),
    comboValue (decodeCombo k) s =
      if k ≤ 3 then some k
      else if k = 4 then some s.A
      else if k = 5 then some s.B
      else if k = 6 then some s.C
      else none

/-! ### The instructions, each with its whole next state (result, completion and frame) -/

/-- `adv` with any operand that has a value, below the ceiling: `A` becomes the floor of `A / 2^v`, `pc` advances by
2, one step is counted, all else is unchanged (`41_divide.md` sections 1 and 2; the full count is the spec's decision
D6, the model's log entry 7). -/
def Obligations.AdvWritesTheQuotientToA : Prop :=
  ∀ (o : ComboOperand) (s : State) (v : Nat), comboValue o s = some v → s.STEPS < s.CFG.STEP_CEILING →
    exec (.adv o) s =
      .next { s with A := s.A / 2 ^ v, pc := s.pc + 2, STEPS := s.STEPS + 1 }

/-- `bdv` likewise writes the quotient to `B` and leaves `A`; an operand that is `B` is the old `B` (`41_divide.md`
sections 1 and 3; decision D6, log entry 7). -/
def Obligations.BdvWritesTheQuotientToB : Prop :=
  ∀ (o : ComboOperand) (s : State) (v : Nat), comboValue o s = some v → s.STEPS < s.CFG.STEP_CEILING →
    exec (.bdv o) s =
      .next { s with B := s.A / 2 ^ v, pc := s.pc + 2, STEPS := s.STEPS + 1 }

/-- `cdv` likewise writes the quotient to `C` and leaves `A`; an operand that is `C` is the old `C` (`41_divide.md`
sections 1 and 4; decision D6, log entry 7). -/
def Obligations.CdvWritesTheQuotientToC : Prop :=
  ∀ (o : ComboOperand) (s : State) (v : Nat), comboValue o s = some v → s.STEPS < s.CFG.STEP_CEILING →
    exec (.cdv o) s =
      .next { s with C := s.A / 2 ^ v, pc := s.pc + 2, STEPS := s.STEPS + 1 }

/-- `bxl`, every literal cell, below the ceiling: `B` becomes `B` xor the literal (`42_xor_mod.md` section 1; literals
of 8 and above are the spec's decision D5, the model's log entry 5). -/
def Obligations.BxlXorsTheLiteralIntoB : Prop :=
  ∀ (k : Nat) (s : State), s.STEPS < s.CFG.STEP_CEILING →
    exec (.bxl k) s = .next { s with B := s.B ^^^ k, pc := s.pc + 2, STEPS := s.STEPS + 1 }

/-- `bst` with any operand that has a value, below the ceiling: `B` becomes the value modulo 8 (`42_xor_mod.md`
section 2). -/
def Obligations.BstWritesTheValueModuloEightToB : Prop :=
  ∀ (o : ComboOperand) (s : State) (v : Nat), comboValue o s = some v → s.STEPS < s.CFG.STEP_CEILING →
    exec (.bst o) s =
      .next { s with B := v % 8, pc := s.pc + 2, STEPS := s.STEPS + 1 }

/-- `bxc`, every operand cell, 7 included, below the ceiling: `B` becomes `B` xor `C`, and the operand has no effect
(`42_xor_mod.md` section 3; that cells above 7 are ignored too is also the spec's decision D5). -/
def Obligations.BxcXorsCIntoBWhateverTheOperand : Prop :=
  ∀ (k : Nat) (s : State), s.STEPS < s.CFG.STEP_CEILING →
    exec (.bxc k) s = .next { s with B := s.B ^^^ s.C, pc := s.pc + 2, STEPS := s.STEPS + 1 }

/-- `jnz`, every literal cell, below the ceiling (`43_jump.md`; literals of 8 and above are the spec's decision D5,
the place of the ceiling its decision D7): taken when `A` is not 0, to the literal as an absolute index and with no
advance as well; otherwise only the advance by 2. Opcode cell 3 is this instruction. -/
def Obligations.JnzJumpsToTheLiteralWhenAIsNotZero : Prop :=
  ∀ (k : Nat) (s : State), decode 3 k = .ok (.jnz k) ∧
    (s.STEPS < s.CFG.STEP_CEILING →
      exec (.jnz k) s =
        .next { s with pc := if s.A = 0 then s.pc + 2 else k, STEPS := s.STEPS + 1 })

/-- `out` with any operand that has a value, below the ceiling: the value modulo 8 is appended to `OUT` as its last
entry, and no register changes (`44_output.md`). -/
def Obligations.OutAppendsTheValueModuloEight : Prop :=
  ∀ (o : ComboOperand) (s : State) (v : Nat), comboValue o s = some v → s.STEPS < s.CFG.STEP_CEILING →
    exec (.out o) s =
      .next { s with OUT := s.OUT ++ [BitVec.ofNat 3 (v % 8)], pc := s.pc + 2, STEPS := s.STEPS + 1 }

/-! ### Faults of an instruction -/

/-- `ReservedOperand` (`60_exceptions.md` section 1): the five instructions with a combo operand enter it, changing
nothing but `CAUSE` and `STATUS`, when the operand is reserved; and no instruction enters it otherwise, so `bxl`,
`jnz` and `bxc` never do. (Which cells beyond 7 are reserved is the spec's decision D5.) -/
def Obligations.ReservedOperandIsRaisedBeforeAnyEffect : Prop :=
  ∀ s : State,
    (∀ (k : Nat) (i : Instr),
      i ∈ [.adv (.reserved k), .bst (.reserved k), .out (.reserved k), .bdv (.reserved k), .cdv (.reserved k)] →
      exec i s = .next { s with CAUSE := .reservedOperand, STATUS := .faulted }) ∧
    (∀ (i : Instr) (t : State), s.CAUSE ≠ .reservedOperand → exec i s = .next t → t.CAUSE = .reservedOperand →
      ∃ k : Nat,
        i ∈ [.adv (.reserved k), .bst (.reserved k), .out (.reserved k), .bdv (.reserved k), .cdv (.reserved k)])

/-- `RunawayExecution` (`60_exceptions.md` rules R123 and R126; the comparison is the spec's decision D7, the model's
log entry 8): an instruction that executes with the count already at the ceiling or above has its whole effect (the
one it has from count 0), is counted, and enters the fault; below the ceiling no instruction raises it. -/
def Obligations.RunawayExecutionComesAfterTheWholeEffect : Prop :=
  ∀ (i : Instr) (s : State),
    (∀ e : State, s.CFG.STEP_CEILING ≤ s.STEPS → exec i { s with STEPS := 0 } = .next e → e.STEPS = 1 →
      exec i s = .next { e with STEPS := s.STEPS + 1, CAUSE := .runawayExecution, STATUS := .faulted }) ∧
    (∀ t : State, s.STEPS < s.CFG.STEP_CEILING → s.CAUSE ≠ .runawayExecution → exec i s = .next t →
      t.CAUSE ≠ .runawayExecution)

/-- `STEPS` counts executed instructions (`10_state.md` section 3; the counter is the spec's decision D16): a tick
adds 1, also in the tick that raises `RunawayExecution`, except that a tick that halts or raises a decode fault leaves
it. -/
def Obligations.StepsCountsExecutedInstructionsOnly : Prop :=
  ∀ s t : State, s.CAUSE = .none → step s = .next t →
    if t.STATUS = .halted ∨ t.CAUSE = .invalidOpcode ∨ t.CAUSE = .reservedOperand then t.STEPS = s.STEPS
    else t.STEPS = s.STEPS + 1

/-! ### What an instruction leaves unchanged, and what it depends on -/

/-- In every next state, faults included: a register changes only under the instructions that R12 lets write it, `OUT`
changes only under `out`, and the tape and the parameters never (`10_state.md` sections 1, 4 and 6). -/
def Obligations.InstructionWritesOnlyWhatTheSpecLists : Prop :=
  ∀ (i : Instr) (s t : State), exec i s = .next t →
    (∀ r : Reg, writesReg i r = false → readReg t r = readReg s r) ∧
    ((∀ o, i ≠ .out o) → t.OUT = s.OUT) ∧ t.TAPE = s.TAPE ∧ t.CFG = s.CFG

/-- A register that R12 does not let an instruction read has no influence on the rest of its result: with any other
value there, the instruction leaves everything else the same (`10_state.md` section 1). -/
def Obligations.InstructionDependsOnlyOnTheRegistersItReads : Prop :=
  ∀ (i : Instr) (s t : State) (r : Reg) (x : Nat), readsReg i r = false → exec i s = .next t →
    ∃ t' : State, exec i (withReg s r x) = .next t' ∧ withReg t' r (readReg t r) = t

/-- The program counter update (R74): of an instruction that executes, `pc` becomes the literal exactly when it is a
`jnz` with `A` not 0, and `pc + 2` in every other case. -/
def Obligations.ProgramCounterIsTheLiteralOrAdvancesByTwo : Prop :=
  ∀ (i : Instr) (s t : State), exec i s = .next t → t.STEPS = s.STEPS + 1 →
    (∀ k : Nat, i = .jnz k → s.A ≠ 0 → t.pc = k) ∧
    ((∀ k : Nat, i = .jnz k → s.A = 0) → t.pc = s.pc + 2)

/-- `OUT` is append-only over any number of ticks, and one executed instruction changes it only as an `out` that
appends its value modulo 8 at the end (`10_state.md` section 4, `20_memory.md` section 4). -/
def Obligations.OutputStreamIsAppendOnly : Prop :=
  (∀ (n : Nat) (s : State), s.OUT <+: (runFor n s).OUT) ∧
  (∀ (i : Instr) (s t : State), exec i s = .next t → t.OUT ≠ s.OUT →
    ∃ (o : ComboOperand) (v : Nat), i = .out o ∧ comboValue o s = some v ∧
      t.OUT = s.OUT ++ [BitVec.ofNat 3 (v % 8)])

/-! ### Corner cases the spec names -/

/-- `adv 4`, `bdv 4` and `cdv 4` give 0 for every `A`: the old `A` is both value and count (`41_divide.md` sections
2 and 3, `40_tick_and_operands.md` section 1). -/
def Obligations.ShiftOfAByItselfGivesZero : Prop :=
  ∀ s : State, s.STEPS < s.CFG.STEP_CEILING →
    exec (.adv (.register .A)) s = .next { s with A := 0, pc := s.pc + 2, STEPS := s.STEPS + 1 } ∧
    exec (.bdv (.register .A)) s = .next { s with B := 0, pc := s.pc + 2, STEPS := s.STEPS + 1 } ∧
    exec (.cdv (.register .A)) s = .next { s with C := 0, pc := s.pc + 2, STEPS := s.STEPS + 1 }

/-- A count of the register width `REGW` or more gives 0, never a shift by its low bits, where `A` is within that
width (`41_divide.md` section 1; the spec's decision D6, the model's log entry 7). -/
def Obligations.CountOfTheRegisterWidthOrMoreGivesZero : Prop :=
  ∀ (o : ComboOperand) (s : State) (v : Nat), s.A < 2 ^ s.CFG.REGW → comboValue o s = some v → s.CFG.REGW ≤ v →
    s.STEPS < s.CFG.STEP_CEILING →
    exec (.adv o) s = .next { s with A := 0, pc := s.pc + 2, STEPS := s.STEPS + 1 } ∧
    exec (.bdv o) s = .next { s with B := 0, pc := s.pc + 2, STEPS := s.STEPS + 1 } ∧
    exec (.cdv o) s = .next { s with C := 0, pc := s.pc + 2, STEPS := s.STEPS + 1 }

/-- The same `bxl` twice, or `bxc` twice, restores `B` and leaves `A` and `C` (`42_xor_mod.md` sections 1 and 3). -/
def Obligations.XorAppliedTwiceRestoresB : Prop :=
  ∀ (i : Instr) (s t u : State), (∃ k : Nat, i = .bxl k ∨ i = .bxc k) → exec i s = .next t → exec i t = .next u →
    u.B = s.B ∧ u.A = s.A ∧ u.C = s.C ∧ u.pc = s.pc + 4

/-- `bxl` with a literal of at most 7 leaves every bit of `B` above bit 2 (`42_xor_mod.md` section 1). -/
def Obligations.BxlLeavesTheBitsAboveTheLiteral : Prop :=
  ∀ (k : Nat) (s t : State) (n : Nat), k ≤ 7 → 3 ≤ n → exec (.bxl k) s = .next t →
    t.B.testBit n = s.B.testBit n

/-! ### The end of a run, and the host -/

/-- The end of a run (R145): it has ended exactly when `STATUS` is not `RUN`; its result is `OUT` exactly when it
halted, the fault named by `CAUSE` and nothing else when it faulted; and every run ends. -/
def Obligations.ResultOfARunIsTheOutputOrTheFault : Prop :=
  ∀ s : State,
    (hostResult s = none ↔ s.STATUS = .run) ∧
    (∀ vs : List OutVal, hostResult s = some (.output vs) ↔ s.STATUS = .halted ∧ vs = s.OUT) ∧
    (∀ c : Cause, hostResult s = some (.fault c) ↔ s.STATUS = .faulted ∧ c = s.CAUSE) ∧
    (s.Inv → hostResult (run s) ≠ none)

/-- Soundness of the host-side search (`70_reset_and_hazards.md` section 5, informative for the Machine and outside
the block by `00_scope.md` section 2): a value it answers makes a fresh run of the program halt with the program
itself as its output, whatever the parameters of the machine and of the search. -/
def Obligations.ReproducerAnswersReproduceTheProgram : Prop :=
  ∀ (cfg : Config) (p : SearchParams) (program : List Nat) (b c : Int) (a : Nat),
    reproduce cfg p program b c = .found a →
    ∃ vs : List OutVal, candidateResult cfg program b c a = some (.output vs) ∧ vs.map BitVec.toNat = program

/-! ### The parameters -/

/-- The derived widths (`00_scope.md` section 3, `10_state.md` sections 2 to 4; the spec's decisions D12, D15 and
D16): a width computed by `Config.widthOf` is the least that holds its value; so in every state of the invariant
`STEPS` fits `STEPW` bits, `pc` fits `PCW` bits and `OUT` fits its buffer of `OUTCAP` entries, and nothing wraps or
overflows. -/
def Obligations.CountersFitTheLeastWidths : Prop :=
  (∀ n w : Nat, Config.widthOf n ≤ w ↔ n < 2 ^ w) ∧
  ∀ s : State, s.Inv →
    s.STEPS < 2 ^ s.CFG.stepW ∧ s.pc < 2 ^ s.CFG.pcW s.TAPE.length ∧ s.OUT.length ≤ s.CFG.outCap

/-- `REGW`, `CELLW` and `TAPE_CAP` bound the launch values only (`10_state.md` section 1, an inference the spec marks
as its own, and `00_scope.md` section 3): with any other value of them, and the same `STEP_CEILING`, the step does the
same, and no step changes the parameters (log entry 19). -/
def Obligations.WidthsBoundTheLaunchValuesOnly : Prop :=
  ∀ (s t : State) (cfg : Config), cfg.STEP_CEILING = s.CFG.STEP_CEILING → step s = .next t →
    t.CFG = s.CFG ∧ step { s with CFG := cfg } = .next { t with CFG := cfg }
end

