-- ==== Sys2Proof/Laws/Decode.lean ====
section
/-! SUPPORT. The decoder and the encoder on one operand and one opcode cell. -/

namespace Sys2Proof

/-- The form of a combo operand cell, case by case (R55, R57). -/
theorem decodeCombo_cases (k : Nat) :
    (k ≤ 3 ∧ decodeCombo k = .literal (BitVec.ofNat 2 k)) ∨ (k = 4 ∧ decodeCombo k = .register .A) ∨
    (k = 5 ∧ decodeCombo k = .register .B) ∨ (k = 6 ∧ decodeCombo k = .register .C) ∨
    (7 ≤ k ∧ decodeCombo k = .reserved k) := by
  unfold decodeCombo
  split; · exact .inl ⟨‹_›, rfl⟩
  split; · exact .inr (.inl ⟨‹_›, rfl⟩)
  split; · exact .inr (.inr (.inl ⟨‹_›, rfl⟩))
  split; · exact .inr (.inr (.inr (.inl ⟨‹_›, rfl⟩)))
  exact .inr (.inr (.inr (.inr ⟨by omega, rfl⟩)))

theorem decodeCombo_of_ge {k : Nat} (h : 7 ≤ k) : decodeCombo k = .reserved k := by
  rcases decodeCombo_cases k with h' | h' | h' | h' | h'
  · exact absurd h'.1 (by omega)
  · exact absurd h'.1 (by omega)
  · exact absurd h'.1 (by omega)
  · exact absurd h'.1 (by omega)
  · exact h'.2

/-- Only a cell of 7 or more is read as reserved, and it is kept. -/
theorem decodeCombo_eq_reserved {k r : Nat} (h : decodeCombo k = .reserved r) : r = k ∧ 7 ≤ k := by
  rcases decodeCombo_cases k with h' | h' | h' | h' | h' <;> rw [h'.2] at h <;> cases h
  exact ⟨rfl, h'.1⟩

/-- The form read from a cell is always that of a cell. -/
theorem decodeCombo_wellFormed (k : Nat) : (decodeCombo k).wellFormed = true := by
  rcases decodeCombo_cases k with h | h | h | h | h <;> rw [h.2] <;> first | rfl | exact decide_eq_true h.1

/-- The form read from a cell fits every cell width that the cell fits. -/
theorem decodeCombo_fits {k : Nat} {w : Nat} (hk : k < 2 ^ w) : (decodeCombo k).fits w = true := by
  rcases decodeCombo_cases k with h | h | h | h | h <;> rw [h.2] <;> first | rfl | exact decide_eq_true hk

/-- No bit of a combo operand cell is dropped. -/
theorem encodeCombo_decodeCombo (k : Nat) : encodeCombo (decodeCombo k) = k := by
  rcases decodeCombo_cases k with h | h | h | h | h <;> rw [h.2] <;> try exact h.1.symm
  · rw [encodeCombo, BitVec.toNat_ofNat]; exact Nat.mod_eq_of_lt (by omega)
  · rfl

/-- A well-formed combo operand is read back. -/
theorem decodeCombo_encodeCombo (o : ComboOperand) (h : o.wellFormed = true) : decodeCombo (encodeCombo o) = o := by
  rcases o with v | r | k
  · revert v; decide
  · cases r <;> rfl
  · exact decodeCombo_of_ge (of_decide_eq_true h)

/-- The cell of an operand that fits a width of at least 3 fits it. -/
theorem encodeCombo_lt {o : ComboOperand} {w : Nat} (hw : 3 ≤ w) (h : o.fits w = true) : encodeCombo o < 2 ^ w := by
  have h8 : 2 ^ 3 ≤ 2 ^ w := Nat.pow_le_pow_right (by decide) hw
  rcases o with v | r | k
  · have := v.isLt; simp only [encodeCombo]; omega
  · cases r <;> simp only [encodeCombo] <;> omega
  · exact of_decide_eq_true h

/-- The decoder rejects every opcode cell of 8 and above (R79, R121). -/
theorem decode_of_ge (op k : Nat) (h : 8 ≤ op) : decode op k = .error (.invalidOpcode op) := by
  unfold decode
  split <;> first | omega | rfl

/-- The decoder has an instruction for every opcode cell below 8. -/
theorem decode_eq_error {op k : Nat} {r : DecodeReject} (h : decode op k = .error r) : 8 ≤ op := by
  unfold decode at h
  split at h <;> cases h
  rename_i h0 h1 h2 h3 h4 h5 h6 h7
  by_contra hlt
  have : op = 0 ∨ op = 1 ∨ op = 2 ∨ op = 3 ∨ op = 4 ∨ op = 5 ∨ op = 6 ∨ op = 7 := by omega
  tauto

/-- Which opcode cell each decoded instruction came from. -/
theorem decode_eq_ok (op k : Nat) (i : Instr) (h : decode op k = .ok i) :
    (op = 0 ∧ i = .adv (decodeCombo k)) ∨ (op = 1 ∧ i = .bxl k) ∨ (op = 2 ∧ i = .bst (decodeCombo k)) ∨
    (op = 3 ∧ i = .jnz k) ∨ (op = 4 ∧ i = .bxc k) ∨ (op = 5 ∧ i = .out (decodeCombo k)) ∨
    (op = 6 ∧ i = .bdv (decodeCombo k)) ∨ (op = 7 ∧ i = .cdv (decodeCombo k)) := by
  unfold decode at h
  split at h <;> cases h <;> simp

end Sys2Proof
end

