-- ==== Sys2Proof/Laws/State.lean ====
section
/-! SUPPORT. What each operation of `Machine/Ops.lean` that writes a field leaves in every field: one lemma per
field per update, so that no later proof unfolds a record update. -/

namespace Sys2Proof.Machine

@[simp] theorem State.setA_A (s : State) (v : Nat) : (s.setA v).A = v := rfl
@[simp] theorem State.setA_B (s : State) (v : Nat) : (s.setA v).B = s.B := rfl
@[simp] theorem State.setA_C (s : State) (v : Nat) : (s.setA v).C = s.C := rfl
@[simp] theorem State.setA_pc (s : State) (v : Nat) : (s.setA v).pc = s.pc := rfl
@[simp] theorem State.setA_STEPS (s : State) (v : Nat) : (s.setA v).STEPS = s.STEPS := rfl
@[simp] theorem State.setA_STATUS (s : State) (v : Nat) : (s.setA v).STATUS = s.STATUS := rfl
@[simp] theorem State.setA_CAUSE (s : State) (v : Nat) : (s.setA v).CAUSE = s.CAUSE := rfl
@[simp] theorem State.setA_OUT (s : State) (v : Nat) : (s.setA v).OUT = s.OUT := rfl
@[simp] theorem State.setA_TAPE (s : State) (v : Nat) : (s.setA v).TAPE = s.TAPE := rfl
@[simp] theorem State.setA_CFG (s : State) (v : Nat) : (s.setA v).CFG = s.CFG := rfl

@[simp] theorem State.setB_A (s : State) (v : Nat) : (s.setB v).A = s.A := rfl
@[simp] theorem State.setB_B (s : State) (v : Nat) : (s.setB v).B = v := rfl
@[simp] theorem State.setB_C (s : State) (v : Nat) : (s.setB v).C = s.C := rfl
@[simp] theorem State.setB_pc (s : State) (v : Nat) : (s.setB v).pc = s.pc := rfl
@[simp] theorem State.setB_STEPS (s : State) (v : Nat) : (s.setB v).STEPS = s.STEPS := rfl
@[simp] theorem State.setB_STATUS (s : State) (v : Nat) : (s.setB v).STATUS = s.STATUS := rfl
@[simp] theorem State.setB_CAUSE (s : State) (v : Nat) : (s.setB v).CAUSE = s.CAUSE := rfl
@[simp] theorem State.setB_OUT (s : State) (v : Nat) : (s.setB v).OUT = s.OUT := rfl
@[simp] theorem State.setB_TAPE (s : State) (v : Nat) : (s.setB v).TAPE = s.TAPE := rfl
@[simp] theorem State.setB_CFG (s : State) (v : Nat) : (s.setB v).CFG = s.CFG := rfl

@[simp] theorem State.setC_A (s : State) (v : Nat) : (s.setC v).A = s.A := rfl
@[simp] theorem State.setC_B (s : State) (v : Nat) : (s.setC v).B = s.B := rfl
@[simp] theorem State.setC_C (s : State) (v : Nat) : (s.setC v).C = v := rfl
@[simp] theorem State.setC_pc (s : State) (v : Nat) : (s.setC v).pc = s.pc := rfl
@[simp] theorem State.setC_STEPS (s : State) (v : Nat) : (s.setC v).STEPS = s.STEPS := rfl
@[simp] theorem State.setC_STATUS (s : State) (v : Nat) : (s.setC v).STATUS = s.STATUS := rfl
@[simp] theorem State.setC_CAUSE (s : State) (v : Nat) : (s.setC v).CAUSE = s.CAUSE := rfl
@[simp] theorem State.setC_OUT (s : State) (v : Nat) : (s.setC v).OUT = s.OUT := rfl
@[simp] theorem State.setC_TAPE (s : State) (v : Nat) : (s.setC v).TAPE = s.TAPE := rfl
@[simp] theorem State.setC_CFG (s : State) (v : Nat) : (s.setC v).CFG = s.CFG := rfl

@[simp] theorem State.advance_A (s : State) : (s.advance).A = s.A := rfl
@[simp] theorem State.advance_B (s : State) : (s.advance).B = s.B := rfl
@[simp] theorem State.advance_C (s : State) : (s.advance).C = s.C := rfl
@[simp] theorem State.advance_pc (s : State) : (s.advance).pc = s.pc + 2 := rfl
@[simp] theorem State.advance_STEPS (s : State) : (s.advance).STEPS = s.STEPS := rfl
@[simp] theorem State.advance_STATUS (s : State) : (s.advance).STATUS = s.STATUS := rfl
@[simp] theorem State.advance_CAUSE (s : State) : (s.advance).CAUSE = s.CAUSE := rfl
@[simp] theorem State.advance_OUT (s : State) : (s.advance).OUT = s.OUT := rfl
@[simp] theorem State.advance_TAPE (s : State) : (s.advance).TAPE = s.TAPE := rfl
@[simp] theorem State.advance_CFG (s : State) : (s.advance).CFG = s.CFG := rfl

@[simp] theorem State.jumpTo_A (s : State) (n : Nat) : (s.jumpTo n).A = s.A := rfl
@[simp] theorem State.jumpTo_B (s : State) (n : Nat) : (s.jumpTo n).B = s.B := rfl
@[simp] theorem State.jumpTo_C (s : State) (n : Nat) : (s.jumpTo n).C = s.C := rfl
@[simp] theorem State.jumpTo_pc (s : State) (n : Nat) : (s.jumpTo n).pc = n := rfl
@[simp] theorem State.jumpTo_STEPS (s : State) (n : Nat) : (s.jumpTo n).STEPS = s.STEPS := rfl
@[simp] theorem State.jumpTo_STATUS (s : State) (n : Nat) : (s.jumpTo n).STATUS = s.STATUS := rfl
@[simp] theorem State.jumpTo_CAUSE (s : State) (n : Nat) : (s.jumpTo n).CAUSE = s.CAUSE := rfl
@[simp] theorem State.jumpTo_OUT (s : State) (n : Nat) : (s.jumpTo n).OUT = s.OUT := rfl
@[simp] theorem State.jumpTo_TAPE (s : State) (n : Nat) : (s.jumpTo n).TAPE = s.TAPE := rfl
@[simp] theorem State.jumpTo_CFG (s : State) (n : Nat) : (s.jumpTo n).CFG = s.CFG := rfl

@[simp] theorem State.outAppend_A (s : State) (v : OutVal) : (s.outAppend v).A = s.A := rfl
@[simp] theorem State.outAppend_B (s : State) (v : OutVal) : (s.outAppend v).B = s.B := rfl
@[simp] theorem State.outAppend_C (s : State) (v : OutVal) : (s.outAppend v).C = s.C := rfl
@[simp] theorem State.outAppend_pc (s : State) (v : OutVal) : (s.outAppend v).pc = s.pc := rfl
@[simp] theorem State.outAppend_STEPS (s : State) (v : OutVal) : (s.outAppend v).STEPS = s.STEPS := rfl
@[simp] theorem State.outAppend_STATUS (s : State) (v : OutVal) : (s.outAppend v).STATUS = s.STATUS := rfl
@[simp] theorem State.outAppend_CAUSE (s : State) (v : OutVal) : (s.outAppend v).CAUSE = s.CAUSE := rfl
@[simp] theorem State.outAppend_OUT (s : State) (v : OutVal) : (s.outAppend v).OUT = s.OUT ++ [v] := rfl
@[simp] theorem State.outAppend_TAPE (s : State) (v : OutVal) : (s.outAppend v).TAPE = s.TAPE := rfl
@[simp] theorem State.outAppend_CFG (s : State) (v : OutVal) : (s.outAppend v).CFG = s.CFG := rfl

@[simp] theorem State.halt_A (s : State) : (s.halt).A = s.A := rfl
@[simp] theorem State.halt_B (s : State) : (s.halt).B = s.B := rfl
@[simp] theorem State.halt_C (s : State) : (s.halt).C = s.C := rfl
@[simp] theorem State.halt_pc (s : State) : (s.halt).pc = s.pc := rfl
@[simp] theorem State.halt_STEPS (s : State) : (s.halt).STEPS = s.STEPS := rfl
@[simp] theorem State.halt_STATUS (s : State) : (s.halt).STATUS = .halted := rfl
@[simp] theorem State.halt_CAUSE (s : State) : (s.halt).CAUSE = s.CAUSE := rfl
@[simp] theorem State.halt_OUT (s : State) : (s.halt).OUT = s.OUT := rfl
@[simp] theorem State.halt_TAPE (s : State) : (s.halt).TAPE = s.TAPE := rfl
@[simp] theorem State.halt_CFG (s : State) : (s.halt).CFG = s.CFG := rfl

@[simp] theorem State.raise_A (s : State) (c : Cause) : (s.raise c).A = s.A := rfl
@[simp] theorem State.raise_B (s : State) (c : Cause) : (s.raise c).B = s.B := rfl
@[simp] theorem State.raise_C (s : State) (c : Cause) : (s.raise c).C = s.C := rfl
@[simp] theorem State.raise_pc (s : State) (c : Cause) : (s.raise c).pc = s.pc := rfl
@[simp] theorem State.raise_STEPS (s : State) (c : Cause) : (s.raise c).STEPS = s.STEPS := rfl
@[simp] theorem State.raise_STATUS (s : State) (c : Cause) : (s.raise c).STATUS = .faulted := rfl
@[simp] theorem State.raise_CAUSE (s : State) (c : Cause) : (s.raise c).CAUSE = c := rfl
@[simp] theorem State.raise_OUT (s : State) (c : Cause) : (s.raise c).OUT = s.OUT := rfl
@[simp] theorem State.raise_TAPE (s : State) (c : Cause) : (s.raise c).TAPE = s.TAPE := rfl
@[simp] theorem State.raise_CFG (s : State) (c : Cause) : (s.raise c).CFG = s.CFG := rfl

@[simp] theorem State.launched_A (cfg : Config) (tape : List Nat) (a b c : Nat) :
    (State.launched cfg tape a b c).A = a := rfl
@[simp] theorem State.launched_B (cfg : Config) (tape : List Nat) (a b c : Nat) :
    (State.launched cfg tape a b c).B = b := rfl
@[simp] theorem State.launched_C (cfg : Config) (tape : List Nat) (a b c : Nat) :
    (State.launched cfg tape a b c).C = c := rfl
@[simp] theorem State.launched_pc (cfg : Config) (tape : List Nat) (a b c : Nat) :
    (State.launched cfg tape a b c).pc = 0 := rfl
@[simp] theorem State.launched_STEPS (cfg : Config) (tape : List Nat) (a b c : Nat) :
    (State.launched cfg tape a b c).STEPS = 0 := rfl
@[simp] theorem State.launched_STATUS (cfg : Config) (tape : List Nat) (a b c : Nat) :
    (State.launched cfg tape a b c).STATUS = .run := rfl
@[simp] theorem State.launched_CAUSE (cfg : Config) (tape : List Nat) (a b c : Nat) :
    (State.launched cfg tape a b c).CAUSE = .none := rfl
@[simp] theorem State.launched_OUT (cfg : Config) (tape : List Nat) (a b c : Nat) :
    (State.launched cfg tape a b c).OUT = [] := rfl
@[simp] theorem State.launched_TAPE (cfg : Config) (tape : List Nat) (a b c : Nat) :
    (State.launched cfg tape a b c).TAPE = tape := rfl
@[simp] theorem State.launched_CFG (cfg : Config) (tape : List Nat) (a b c : Nat) :
    (State.launched cfg tape a b c).CFG = cfg := rfl

theorem State.reset_eq : State.reset = State.launched Config.spec [] 0 0 0 := rfl

end Sys2Proof.Machine
end

