-- ==== Sys2Proof/Laws/Launch.lean ====
section
/-! SUPPORT. What a launch can do, said once. -/

namespace Sys2Proof.Machine

/-- Inversion of an admitted launch: the bounds of R5 and R142 hold of its arguments, and the state is the one R24
gives. -/
theorem launch_next_cases {cfg : Config} {l : LaunchTuple} {s : State} (h : launch cfg l = .next s) :
    (3 ≤ cfg.CELLW ∧ cfg.CELLW ≤ cfg.REGW) ∧
    (0 ≤ l.A0 ∧ l.A0.toNat < 2 ^ cfg.REGW) ∧ (0 ≤ l.B0 ∧ l.B0.toNat < 2 ^ cfg.REGW) ∧
    (0 ≤ l.C0 ∧ l.C0.toNat < 2 ^ cfg.REGW) ∧ (∀ c ∈ l.program, c < 2 ^ cfg.CELLW) ∧
    (∀ cap ∈ cfg.TAPE_CAP, l.program.length ≤ cap) ∧
    s = State.launched cfg l.program l.A0.toNat l.B0.toNat l.C0.toNat := by
  unfold launch at h
  split at h
  · rename_i hl
    cases h
    simp only [launchAdmitted, Config.admitted, regAdmitted, tapeAdmitted, Bool.and_eq_true, decide_eq_true_eq,
      List.all_eq_true, Option.all_eq_true] at hl
    obtain ⟨⟨⟨⟨hcfg, hA⟩, hB⟩, hC⟩, hcells, hcap⟩ := hl
    exact ⟨hcfg, hA, hB, hC, hcells, hcap, rfl⟩
  · cases h

end Sys2Proof.Machine
end

