-- ==== Sys2Proof/Laws/Operands.lean ====
section
/-! SUPPORT. What each operation on operands and values computes, in natural numbers, once. -/

namespace Sys2Proof.Machine

@[simp] theorem comboValue_literal (v : BitVec 2) (s : State) :
    comboValue (.literal v) s = some v.toNat := rfl

@[simp] theorem comboValue_register (r : Reg) (s : State) : comboValue (.register r) s = some (readReg s r) := rfl

@[simp] theorem comboValue_reserved (k : Nat) (s : State) : comboValue (.reserved k) s = none := rfl

@[simp] theorem readReg_A (s : State) : readReg s .A = s.A := rfl

@[simp] theorem readReg_B (s : State) : readReg s .B = s.B := rfl

@[simp] theorem readReg_C (s : State) : readReg s .C = s.C := rfl

/-- The operand has no value exactly where it is reserved. -/
theorem comboValue_eq_none_iff (o : ComboOperand) (s : State) : comboValue o s = none ↔ ∃ k, o = .reserved k := by
  cases o <;> simp

/-- The operand has a value exactly where it is legal. -/
theorem comboValue_isSome (o : ComboOperand) (s : State) : (comboValue o s).isSome = o.legal := by
  cases o <;> rfl

/-- A resolved operand depends on the three registers alone. -/
theorem comboValue_congr (o : ComboOperand) (s t : State) (hA : s.A = t.A) (hB : s.B = t.B) (hC : s.C = t.C) :
    comboValue o s = comboValue o t := by
  rcases o with v | r | k
  · rfl
  · cases r <;> simp [hA, hB, hC]
  · rfl

/-- The shift is the floor division by `2^n`, for every count (R83). -/
theorem shiftRight_eq (a n : Nat) : shiftRight a n = a / 2 ^ n := by
  unfold shiftRight
  split
  · exact (Nat.div_eq_of_lt (Nat.lt_of_lt_of_le Nat.lt_log2_self (Nat.pow_le_pow_right (by decide) ‹_›))).symm
  · exact Nat.shiftRight_eq_div_pow a n

/-- The shift is never above the value shifted (R11, R83). -/
theorem shiftRight_le (a n : Nat) : shiftRight a n ≤ a := by
  rw [shiftRight_eq]; exact Nat.div_le_self _ _

theorem mod8Word_eq (v : Nat) : mod8Word v = v % 8 := rfl

theorem mod8Word_lt (v : Nat) : mod8Word v < 8 := Nat.mod_lt _ (by decide)

theorem mod8_eq (v : Nat) : mod8 v = BitVec.ofNat 3 (v % 8) := rfl

/-- The reduction modulo 8 as an output value (R93). -/
theorem mod8_toNat (v : Nat) : (mod8 v).toNat = v % 8 := by
  rw [mod8, BitVec.toNat_ofNat]; exact Nat.mod_eq_of_lt (mod8Word_lt v)

@[simp] theorem literalWord_eq (k : Nat) : literalWord k = k := rfl

@[simp] theorem literalIndex_eq (k : Nat) : literalIndex k = k := rfl

theorem aNonZero_iff (s : State) : aNonZero s = true ↔ s.A ≠ 0 := by
  simp [aNonZero]

/-- The value of a combo operand is one that fits the registers, where they do (R11, R55). -/
theorem comboValue_lt {o : ComboOperand} {s : State} {v : Nat} {w : Nat} (hw : 2 ≤ w)
    (hs : ∀ r : Reg, readReg s r < 2 ^ w) (h : comboValue o s = some v) : v < 2 ^ w := by
  rcases o with b | r | k
  · cases h
    exact Nat.lt_of_lt_of_le b.isLt (Nat.pow_le_pow_right (by decide) hw)
  · cases h
    exact hs r
  · cases h

end Sys2Proof.Machine
end

