-- ==== Sys2Proof/Laws/Ops.lean ====
section
/-! SUPPORT. What the step count, operand resolution and the fetch can do, each said once. -/

namespace Sys2Proof.Machine

/-! ### The step count -/

/-- Below the ceiling the count only adds 1 (R75). -/
theorem State.countStep_of_lt (s : State) (c : Nat) (h : s.STEPS < c) :
    s.countStep c = { s with STEPS := s.STEPS + 1 } := by
  rw [State.countStep, if_neg (by omega)]

/-- At or above the ceiling the count adds 1 and the fault is entered (R75, R123). -/
theorem State.countStep_of_ge (s : State) (c : Nat) (h : c ≤ s.STEPS) :
    s.countStep c = { s with STEPS := s.STEPS + 1, CAUSE := .runawayExecution, STATUS := .faulted } := by
  rw [State.countStep, if_pos (by omega)]
  rfl

@[simp] theorem State.countStep_A (s : State) (c : Nat) : (s.countStep c).A = s.A := by
  unfold State.countStep; split <;> rfl

@[simp] theorem State.countStep_B (s : State) (c : Nat) : (s.countStep c).B = s.B := by
  unfold State.countStep; split <;> rfl

@[simp] theorem State.countStep_C (s : State) (c : Nat) : (s.countStep c).C = s.C := by
  unfold State.countStep; split <;> rfl

@[simp] theorem State.countStep_pc (s : State) (c : Nat) : (s.countStep c).pc = s.pc := by
  unfold State.countStep; split <;> rfl

@[simp] theorem State.countStep_STEPS (s : State) (c : Nat) : (s.countStep c).STEPS = s.STEPS + 1 := by
  unfold State.countStep; split <;> rfl

@[simp] theorem State.countStep_OUT (s : State) (c : Nat) : (s.countStep c).OUT = s.OUT := by
  unfold State.countStep; split <;> rfl

@[simp] theorem State.countStep_TAPE (s : State) (c : Nat) : (s.countStep c).TAPE = s.TAPE := by
  unfold State.countStep; split <;> rfl

@[simp] theorem State.countStep_CFG (s : State) (c : Nat) : (s.countStep c).CFG = s.CFG := by
  unfold State.countStep; split <;> rfl

theorem State.retire_eq (s : State) : s.retire = s.countStep s.CFG.STEP_CEILING := rfl

theorem State.retire_of_lt (s : State) (h : s.STEPS < s.CFG.STEP_CEILING) :
    s.retire = { s with STEPS := s.STEPS + 1 } := s.countStep_of_lt _ h

theorem State.retire_of_ge (s : State) (h : s.CFG.STEP_CEILING ≤ s.STEPS) :
    s.retire = { s with STEPS := s.STEPS + 1, CAUSE := .runawayExecution, STATUS := .faulted } :=
  s.countStep_of_ge _ h

@[simp] theorem State.retire_A (s : State) : s.retire.A = s.A := s.countStep_A _

@[simp] theorem State.retire_B (s : State) : s.retire.B = s.B := s.countStep_B _

@[simp] theorem State.retire_C (s : State) : s.retire.C = s.C := s.countStep_C _

@[simp] theorem State.retire_pc (s : State) : s.retire.pc = s.pc := s.countStep_pc _

@[simp] theorem State.retire_STEPS (s : State) : s.retire.STEPS = s.STEPS + 1 := s.countStep_STEPS _

@[simp] theorem State.retire_OUT (s : State) : s.retire.OUT = s.OUT := s.countStep_OUT _

@[simp] theorem State.retire_TAPE (s : State) : s.retire.TAPE = s.TAPE := s.countStep_TAPE _

@[simp] theorem State.retire_CFG (s : State) : s.retire.CFG = s.CFG := s.countStep_CFG _

/-- The count leaves `CAUSE` and `STATUS`, or enters `RunawayExecution` (R75). -/
theorem State.retire_cause (s : State) :
    (s.retire.CAUSE = s.CAUSE ∧ s.retire.STATUS = s.STATUS) ∨
      (s.retire.CAUSE = .runawayExecution ∧ s.retire.STATUS = .faulted) := by
  by_cases h : s.STEPS < s.CFG.STEP_CEILING
  · exact .inl (by rw [s.retire_of_lt h]; exact ⟨rfl, rfl⟩)
  · exact .inr (by rw [s.retire_of_ge (Nat.le_of_not_lt h)]; exact ⟨rfl, rfl⟩)

/-! ### Operand resolution -/

theorem withCombo_of_some {o : ComboOperand} {s : State} {v : Nat} (f : Nat → State)
    (h : comboValue o s = some v) : withCombo o s f = f v := by
  rw [withCombo, h]

theorem withCombo_of_none {o : ComboOperand} {s : State} (f : Nat → State) (h : comboValue o s = none) :
    withCombo o s f = s.raise .reservedOperand := by
  rw [withCombo, h]

@[simp] theorem withCombo_reserved (k : Nat) (s : State) (f : Nat → State) :
    withCombo (.reserved k) s f = s.raise .reservedOperand := rfl

/-! ### The fetch -/

@[simp] theorem State.tapeAt_eq (s : State) (i : Nat) : s.tapeAt i = s.TAPE[i]? := rfl

theorem State.fetch_eq_some_iff (s : State) (op k : Nat) :
    s.fetch = some (op, k) ↔ s.TAPE[s.pc]? = some op ∧ s.TAPE[s.pc + 1]? = some k := by
  unfold State.fetch
  simp only [State.tapeAt_eq]
  split
  · simp_all
  · rename_i h
    constructor
    · intro hh; cases hh
    · rintro ⟨h1, h2⟩
      exact (h _ _ h1 h2).elim

/-- The fetch finds no pair exactly when the halt check of R71 fires. -/
theorem State.fetch_eq_none_iff (s : State) : s.fetch = none ↔ s.pc + 1 ≥ s.TAPE.length := by
  unfold State.fetch
  simp only [State.tapeAt_eq]
  split
  · rename_i op k h1 h2
    have := (List.getElem?_eq_some_iff.mp h2).1
    simp; omega
  · rename_i h
    simp only [true_iff]
    by_contra hlt
    have h2 : s.pc + 1 < s.TAPE.length := by omega
    exact h _ _ (List.getElem?_eq_getElem (by omega)) (List.getElem?_eq_getElem h2)

/-- Only the length of the tape and the two cells at `pc` decide the fetch. -/
theorem State.fetch_congr (s t : State) (h0 : s.TAPE[s.pc]? = t.TAPE[t.pc]?)
    (h1 : s.TAPE[s.pc + 1]? = t.TAPE[t.pc + 1]?) : s.fetch = t.fetch := by
  simp only [State.fetch, State.tapeAt_eq, h0, h1]

end Sys2Proof.Machine
end

