-- ==== Sys2Proof/Laws/PerInstr.lean ====
section
/-! SUPPORT. Statements for all instructions, made per instruction. `Packing`: a legal instruction packs into a
word `iw` of 6 bits, and the decoder reads the instruction back from that word (R56, R62). -/

namespace Sys2Proof.Laws.Packing

/-- The legal encoding of `i` packs, and its packed word decodes to `i`. -/
def Statement (i : Instr) : Prop :=
  i.legal = true → ∃ iw, packWord (encode i).1 (encode i).2 = some iw ∧ iw < 64 ∧ decodeTableWord 8 iw = some i

/-- The packed word of a pair of cells in 0 to 7 unpacks to that pair (R62). -/
theorem unpack_pack {op k : Nat} (hop : op ≤ 7) (hk : k ≤ 7) : unpackWord (8 * op + k) = (op, k) := by
  unfold unpackWord
  ext <;> simp only <;> omega

/-- A pair of cells in 0 to 7 that decodes to `i` and that `i` encodes to packs, and is read back. -/
theorem pack_decodes {i : Instr} {op k : Nat} (he : encode i = (op, k)) (hop : op ≤ 7) (hk : k ≤ 7)
    (hd : decode op k = .ok i) :
    ∃ iw, packWord (encode i).1 (encode i).2 = some iw ∧ iw < 64 ∧ decodeTableWord 8 iw = some i := by
  refine ⟨8 * op + k, by simp [he, packWord, hop, hk], by omega, ?_⟩
  have hm : (8 * op + k) % 2 ^ 8 = 8 * op + k := Nat.mod_eq_of_lt (by omega)
  simp only [decodeTableWord, hm, unpack_pack hop hk, hd, if_pos (show 8 * op + k < 64 by omega)]

/-- A legal combo operand is well formed, and its cell is at most 6. -/
theorem legal_combo {o : ComboOperand} (h : o.legal = true) : o.wellFormed = true ∧ encodeCombo o ≤ 6 := by
  rcases o with v | r | k
  · exact ⟨rfl, by have := v.isLt; simp only [encodeCombo]; omega⟩
  · exact ⟨rfl, by cases r <;> decide⟩
  · cases h

theorem adv (o : ComboOperand) : Statement (.adv o) := fun h =>
  pack_decodes (op := 0) rfl (by decide) (Nat.le_succ_of_le (legal_combo h).2)
    (congrArg (fun o => Except.ok (Instr.adv o)) (decodeCombo_encodeCombo o (legal_combo h).1))

theorem bxl (k : Nat) : Statement (.bxl k) := fun h => pack_decodes (op := 1) rfl (by decide) (of_decide_eq_true h) rfl

theorem bst (o : ComboOperand) : Statement (.bst o) := fun h =>
  pack_decodes (op := 2) rfl (by decide) (Nat.le_succ_of_le (legal_combo h).2)
    (congrArg (fun o => Except.ok (Instr.bst o)) (decodeCombo_encodeCombo o (legal_combo h).1))

theorem jnz (k : Nat) : Statement (.jnz k) := fun h => pack_decodes (op := 3) rfl (by decide) (of_decide_eq_true h) rfl

theorem bxc (k : Nat) : Statement (.bxc k) := fun h => pack_decodes (op := 4) rfl (by decide) (of_decide_eq_true h) rfl

theorem out (o : ComboOperand) : Statement (.out o) := fun h =>
  pack_decodes (op := 5) rfl (by decide) (Nat.le_succ_of_le (legal_combo h).2)
    (congrArg (fun o => Except.ok (Instr.out o)) (decodeCombo_encodeCombo o (legal_combo h).1))

theorem bdv (o : ComboOperand) : Statement (.bdv o) := fun h =>
  pack_decodes (op := 6) rfl (by decide) (Nat.le_succ_of_le (legal_combo h).2)
    (congrArg (fun o => Except.ok (Instr.bdv o)) (decodeCombo_encodeCombo o (legal_combo h).1))

theorem cdv (o : ComboOperand) : Statement (.cdv o) := fun h =>
  pack_decodes (op := 7) rfl (by decide) (Nat.le_succ_of_le (legal_combo h).2)
    (congrArg (fun o => Except.ok (Instr.cdv o)) (decodeCombo_encodeCombo o (legal_combo h).1))

end Sys2Proof.Laws.Packing
end

