-- ==== Sys2Proof/Laws/Step.lean ====
section
/-! SUPPORT. What an instruction, a tick and a step can do, each said once. -/

namespace Sys2Proof.Machine

/-- The effect of an instruction with its program counter update, before the step is counted (R70 part 5); none
where its operand has no resolution. -/
def effect (i : Instr) (s : State) : Option State :=
  match i with
  | .adv o => (comboValue o s).map fun v => (s.setA (shiftRight s.A v)).advance
  | .bxl k => some (s.setB (s.B ^^^ literalWord k)).advance
  | .bst o => (comboValue o s).map fun v => (s.setB (mod8Word v)).advance
  | .jnz k => some (if aNonZero s then s.jumpTo (literalIndex k) else s.advance)
  | .bxc _ => some (s.setB (s.B ^^^ s.C)).advance
  | .out o => (comboValue o s).map fun v => (s.outAppend (mod8 v)).advance
  | .bdv o => (comboValue o s).map fun v => (s.setB (shiftRight s.A v)).advance
  | .cdv o => (comboValue o s).map fun v => (s.setC (shiftRight s.A v)).advance

theorem withCombo_eq_effect (o : ComboOperand) (s : State) (f : Nat → State) :
    withCombo o s (fun v => (f v).retire) =
      match (comboValue o s).map f with
      | some e => e.retire
      | none => s.raise .reservedOperand := by
  unfold withCombo
  cases comboValue o s <;> rfl

/-- Every instruction answers a next state: its effect, counted, or the entry to `ReservedOperand`. -/
theorem exec_eq (i : Instr) (s : State) :
    exec i s = .next (match effect i s with
      | some e => e.retire
      | none => s.raise .reservedOperand) := by
  cases i <;>
    first
    | rfl
    | exact congrArg Host.Outcome.next (withCombo_eq_effect _ s _)

/-- Inversion of `exec`. -/
theorem exec_next_cases {i : Instr} {s t : State} (h : exec i s = .next t) :
    (∃ e, effect i s = some e ∧ t = e.retire) ∨ (effect i s = none ∧ t = s.raise .reservedOperand) := by
  rw [exec_eq] at h
  cases he : effect i s with
  | some e => rw [he] at h; cases h; exact .inl ⟨e, rfl, rfl⟩
  | none => rw [he] at h; cases h; exact .inr ⟨rfl, rfl⟩

/-- No effect touches the step count, the status, the cause, the tape or the parameters. -/
theorem effect_frame {i : Instr} {s e : State} (h : effect i s = some e) :
    e.STEPS = s.STEPS ∧ e.STATUS = s.STATUS ∧ e.CAUSE = s.CAUSE ∧ e.TAPE = s.TAPE ∧
      e.CFG = s.CFG := by
  cases i <;>
    first
    | (obtain ⟨v, -, rfl⟩ := Option.map_eq_some_iff.mp h; exact ⟨rfl, rfl, rfl, rfl, rfl⟩)
    | (cases h; exact ⟨rfl, rfl, rfl, rfl, rfl⟩)
    | (cases h; split <;> exact ⟨rfl, rfl, rfl, rfl, rfl⟩)

/-- An effect appends at most one entry to `OUT`, at the end. -/
theorem effect_OUT {i : Instr} {s e : State} (h : effect i s = some e) : e.OUT = s.OUT ∨ ∃ v, e.OUT = s.OUT ++ [v] := by
  cases i <;>
    first
    | (obtain ⟨v, -, rfl⟩ := Option.map_eq_some_iff.mp h; first | exact .inl rfl | exact .inr ⟨_, rfl⟩)
    | (cases h; exact .inl rfl)
    | (cases h; split <;> exact .inl rfl)

/-- Where an effect leaves `pc`. -/
theorem effect_pc {i : Instr} {s e : State} (h : effect i s = some e) :
    e.pc = s.pc + 2 ∨ ∃ k : Nat, i = .jnz k ∧ s.A ≠ 0 ∧ e.pc = k := by
  cases i with
  | jnz k =>
    cases h
    by_cases hA : s.A = 0
    · exact .inl (by rw [if_neg (by simpa [aNonZero_iff] using hA)]; rfl)
    · exact .inr ⟨k, rfl, hA, by rw [if_pos ((aNonZero_iff s).mpr hA)]; rfl⟩
  | bxl k => cases h; exact .inl rfl
  | bxc k => cases h; exact .inl rfl
  | _ => obtain ⟨v, -, rfl⟩ := Option.map_eq_some_iff.mp h; exact .inl rfl

/-- Only a reserved combo operand leaves an instruction without an effect. -/
theorem effect_eq_none {i : Instr} {s : State} (h : effect i s = none) :
    ∃ k, i = .adv (.reserved k) ∨ i = .bst (.reserved k) ∨ i = .out (.reserved k) ∨ i = .bdv (.reserved k) ∨
      i = .cdv (.reserved k) := by
  cases i with
  | bxl k => cases h
  | jnz k => cases h
  | bxc k => cases h
  | _ =>
    obtain ⟨k, rfl⟩ := (comboValue_eq_none_iff _ s).mp (Option.map_eq_none_iff.mp h)
    exact ⟨k, by simp⟩

theorem step_of_run {s : State} (h : s.STATUS = .run) : step s = tick s := by
  rw [step, stepByStatus, h]

theorem step_of_halted {s : State} (h : s.STATUS = .halted) : step s = .fault .noStepAfterHalt := by
  rw [step, stepByStatus, h]

theorem step_of_faulted {s : State} (h : s.STATUS = .faulted) : step s = .fault (.noStepAfterFault s.CAUSE) := by
  rw [step, stepByStatus, h]

theorem tick_of_none {s : State} (h : s.fetch = none) : tick s = .next s.halt := by
  rw [tick, h]

theorem tick_of_error {s : State} {op k op' : Nat} (h : s.fetch = some (op, k))
    (hd : decode op k = .error (.invalidOpcode op')) : tick s = .next (s.raise .invalidOpcode) := by
  simp only [tick, h, hd]

theorem tick_of_ok {s : State} {op k : Nat} {i : Instr} (h : s.fetch = some (op, k)) (hd : decode op k = .ok i) :
    tick s = exec i s := by
  simp only [tick, h, hd]

/-- Inversion of `step`: a next state comes from a running machine by a halt, an invalid opcode or the decoded
instruction. -/
theorem step_next_cases {s t : State} (h : step s = .next t) :
    s.STATUS = .run ∧
      ((s.fetch = none ∧ t = s.halt) ∨
       (∃ op k, s.fetch = some (op, k) ∧ 8 ≤ op ∧ t = s.raise .invalidOpcode) ∨
       (∃ op k i, s.fetch = some (op, k) ∧ decode op k = .ok i ∧ exec i s = .next t)) := by
  cases hs : s.STATUS with
  | halted => rw [step_of_halted hs] at h; cases h
  | faulted => rw [step_of_faulted hs] at h; cases h
  | run =>
    refine ⟨rfl, ?_⟩
    rw [step_of_run hs] at h
    cases hf : s.fetch with
    | none => rw [tick_of_none hf] at h; cases h; exact .inl ⟨rfl, rfl⟩
    | some p =>
      obtain ⟨op, k⟩ := p
      by_cases hge : 8 ≤ op
      · rw [tick_of_error hf (decode_of_ge op k hge)] at h
        cases h
        exact .inr (.inl ⟨op, k, rfl, hge, rfl⟩)
      · cases hd : decode op k with
        | ok i => rw [tick_of_ok hf hd] at h; exact .inr (.inr ⟨op, k, i, rfl, hd, h⟩)
        | error r =>
          exact absurd (decode_eq_error hd) hge

/-- The pair placed on a tape is the pair found there. -/
theorem placePair_getElem? (tape : List Nat) (i : Nat) (op k : Nat) :
    (placePair tape i op k)[i]? = some op ∧ (placePair tape i op k)[i + 1]? = some k := by
  have hlen : (tape.take i ++ List.replicate (i - tape.length) (0 : Nat)).length = i := by
    simp; omega
  unfold placePair
  constructor
  · rw [List.getElem?_append_right (by omega), hlen]; simp
  · rw [List.getElem?_append_right (by omega), hlen]; simp

/-- The interface's contract: the next step after `withFetchWord` runs the instruction that the packed word
decodes to. -/
theorem step_withFetchWord (s : State) (nbits w : Nat) (i : Instr) (h : decodeTableWord nbits w = some i) :
    step (s.withFetchWord nbits w) = exec i (s.withFetchWord nbits w) := by
  have hd : decode (unpackWord (w % 2 ^ nbits)).1 (unpackWord (w % 2 ^ nbits)).2 = .ok i := by
    unfold decodeTableWord at h
    simp only at h
    split at h
    · split at h
      · cases h; assumption
      · cases h
    · cases h
  rw [step_of_run (by rfl)]
  exact tick_of_ok ((State.fetch_eq_some_iff _ _ _).mpr (placePair_getElem? _ _ _ _)) hd

end Sys2Proof.Machine
end

