-- ==== Sys2Proof/Tests/Slice0.lean ====
section
/-! SUPPORT. The model's own tests, and for every statement with hypotheses a witness that meets them together.
Expected results are those of `spec/95_test_vectors.md` (its vector's name stands in the comment) or worked by hand
from the rule named. -/

namespace Sys2Proof.Tests
open Sys2Proof.Machine

/-- A running state with the given registers, `pc`, step count and tape, at the spec's parameters. -/
def mk (a b c pc steps : Nat) (tape : List Nat) : State :=
  { State.launched Config.spec tape a b c with pc := pc, STEPS := steps }

/-- The spec's parameters but for the ceiling. -/
def ceiling (n : Nat) : Config := { Config.spec with STEP_CEILING := n }

/-- The state after an outcome, where there is one. -/
def after (o : Host.Outcome State Fault Refusal) : Option State :=
  match o with
  | .next t => some t
  | .fault _ => none
  | .refused _ => none

/-! ### Parameters (R5) -/

theorem test_parameters : Config.spec.REGW = 45 ∧ Config.spec.CELLW = 4 ∧ Config.spec.STEP_CEILING = 100000 ∧
    Config.spec.stepW = 17 ∧ Config.outW = 3 ∧ Config.spec.outCap = 100001 ∧ Config.spec.pcW 15 = 4 ∧
    Config.spec.pcW 16 = 5 := by decide

/-- `3 <= CELLW <= REGW`, at its edges. -/
theorem test_parameter_bounds : Config.spec.admitted = true ∧ ({ Config.spec with CELLW := 2 }).admitted = false ∧
    ({ Config.spec with REGW := 3 }).admitted = false ∧
    ({ Config.spec with REGW := 3, CELLW := 3 }).admitted = true := by decide

/-! ### Well-formedness: an ill-formed or illegal term for each check -/

theorem test_wellFormed_refuses_reserved_below_seven :
    (Instr.adv (.reserved 3)).wellFormed = false ∧ (Instr.bst (.reserved 6)).wellFormed = false ∧
    (Instr.out (.reserved 0)).wellFormed = false ∧ (Instr.bdv (.reserved 4)).wellFormed = false ∧
    (Instr.cdv (.reserved 5)).wellFormed = false := by decide

theorem test_legal_refuses_reserved_operands :
    (Instr.adv (.reserved 7)).legal = false ∧ (Instr.bst (.reserved 7)).legal = false ∧
    (Instr.out (.reserved 7)).legal = false ∧ (Instr.bdv (.reserved 7)).legal = false ∧
    (Instr.cdv (.reserved 8)).legal = false := by decide

theorem test_fits_refuses_cells_above_the_width :
    (Instr.adv (.reserved 16)).fits 4 = false ∧ (Instr.bxl 8).fits 3 = false ∧ (Instr.jnz 16).fits 4 = false ∧
    (Instr.bxc 15).fits 4 = true := by decide

theorem test_legal_refuses_cells_above_seven :
    (Instr.bxl 8).legal = false ∧ (Instr.jnz 9).legal = false ∧ (Instr.bxc 15).legal = false := by decide

/-! ### Decoding: cells written out from R51, R52 and R55 -/

theorem test_decode_divide : decode 0b0000 0b0001 = .ok (.adv (.literal 1)) ∧
    decode 0b0110 0b0101 = .ok (.bdv (.register .B)) ∧ decode 0b0111 0b0110 = .ok (.cdv (.register .C)) := by decide

theorem test_decode_xor_mod : decode 0b0001 0b0111 = .ok (.bxl 7) ∧
    decode 0b0010 0b0100 = .ok (.bst (.register .A)) ∧ decode 0b0100 0b0111 = .ok (.bxc 7) := by decide

theorem test_decode_jump_output : decode 0b0011 0b0000 = .ok (.jnz 0) ∧
    decode 0b0101 0b0011 = .ok (.out (.literal 3)) := by decide

/-- V-T9, V-T13, V-T16. -/
theorem test_decode_reserved : decode 0b1000 0b0111 = .error (.invalidOpcode 8) ∧
    decode 0b1111 0b0000 = .error (.invalidOpcode 15) ∧ decode 0b0101 0b1000 = .ok (.out (.reserved 8)) := by decide

/-- P1, in the notation of R60. -/
theorem test_listing : listing (.adv (.literal 1)) = "adv 1" ∧ assemble "out" 4 = some (5, 4) ∧
    assemble "nop" 0 = none ∧ packWord 3 0 = some 0o30 ∧ packWord 8 0 = none := by decide

/-! ### One step of each instruction -/

/-- V-DIV7 and V-DIV8: the largest count below the width, and the width. -/
theorem test_adv_count_boundary :
    ((after (exec (.adv (.register .B)) (mk 35184372088831 44 0 0 0 []))).map State.A = some 1) ∧
    ((after (exec (.adv (.register .B)) (mk 35184372088831 45 0 0 0 []))).map State.A = some 0) := by decide

/-- V-DIV20: reserved combo, nothing written. -/
theorem test_adv_reserved : after (step (mk 5 0 0 0 0 [0, 7])) =
    some { mk 5 0 0 0 0 [0, 7] with STATUS := .faulted, CAUSE := .reservedOperand } := by decide

/-- V-DIV13: the old `B` is the count, then overwritten. -/
theorem test_bdv_old_B : after (step (mk 64 3 0 0 0 [6, 5])) = some (mk 64 8 0 2 1 [6, 5]) := by decide

/-- V-DIV17: the old `C` is the count, then overwritten. -/
theorem test_cdv_old_C : after (step (mk 1024 0 4 0 0 [7, 6])) = some (mk 1024 0 64 2 1 [7, 6]) := by decide

/-- V-X3: only the low three bits change, and literal 5 is not register `B`. -/
theorem test_bxl_literal_five :
    after (step (mk 0 35184372088831 0 0 0 [1, 5])) = some (mk 0 35184372088826 0 2 1 [1, 5]) := by decide

/-- V-T14: a literal above 7 is used raw. -/
theorem test_bxl_raw_cell : after (step (mk 0 5 0 0 0 [1, 9])) = some (mk 0 12 0 2 1 [1, 9]) := by decide

/-- V-X8: source and destination the same. -/
theorem test_bst_of_B : after (step (mk 0 35184372088831 0 0 0 [2, 5])) = some (mk 0 7 0 2 1 [2, 5]) := by decide

/-- V-X6. -/
theorem test_bst_of_C : after (step (mk 0 0 9 0 0 [2, 6])) = some (mk 0 1 9 2 1 [2, 6]) := by decide

/-- V-X14: operand 7 ignored, no fault. -/
theorem test_bxc_operand_seven : after (step (mk 0 5 3 0 0 [4, 7])) = some (mk 0 6 3 2 1 [4, 7]) := by decide

/-- V-X17: the full width takes part. -/
theorem test_bxc_full_width : after (step (mk 0 17592186044416 17592186044415 0 0 [4, 0])) =
    some (mk 0 35184372088831 17592186044415 2 1 [4, 0]) := by decide

/-- V-J4: operand 7 is legal and lands beyond the tape. -/
theorem test_jnz_taken : after (step (mk 1 0 0 0 0 [3, 7, 5, 4])) = some (mk 1 0 0 7 1 [3, 7, 5, 4]) := by decide

/-- V-J6: not taken. -/
theorem test_jnz_not_taken : after (step (mk 0 0 0 0 0 [3, 7])) = some (mk 0 0 0 2 1 [3, 7]) := by decide

/-- V-O3: a full-width source gives three bits. -/
theorem test_out_full_width : after (step (mk 0 35184372088831 0 0 0 [5, 5])) =
    some { mk 0 35184372088831 0 2 1 [5, 5] with OUT := [7] } := by decide

/-- V-O6, its second step: the entry goes to the end. -/
theorem test_out_appends_at_the_end : (after (step { mk 10 11 12 2 1 [5, 4, 5, 5] with OUT := [2] })).map State.OUT =
    some [2, 3] := by decide

/-! ### The tick, the ceiling, launch -/

/-- V-T4: a lone out-of-range last cell halts. -/
theorem test_halt_on_lone_cell : after (step (mk 13 0 0 2 1 [5, 4, 9])) =
    some { mk 13 0 0 2 1 [5, 4, 9] with STATUS := .halted } := by decide

/-- V-T9: `InvalidOpcode` before `ReservedOperand`. -/
theorem test_invalid_opcode_first : after (step (mk 1 2 3 0 0 [8, 7])) =
    some { mk 1 2 3 0 0 [8, 7] with STATUS := .faulted, CAUSE := .invalidOpcode } := by decide

/-- V-T6, V-T7: the 100000th step is allowed, the 100001st faults with its whole effect. -/
theorem test_ceiling : after (step (mk 0 0 0 0 99999 [1, 3])) = some (mk 0 3 0 2 100000 [1, 3]) ∧
    after (step (mk 0 0 0 0 100000 [1, 3])) =
      some { mk 0 3 0 2 100001 [1, 3] with STATUS := .faulted, CAUSE := .runawayExecution } := by decide

/-- V-T10: a decode fault in what would be the 100001st step is not counted. -/
theorem test_reserved_at_ceiling : after (step (mk 0 0 0 0 100000 [5, 7])) =
    some { mk 0 0 0 0 100000 [5, 7] with STATUS := .faulted, CAUSE := .reservedOperand } := by decide

/-- V-T11: with a ceiling of 3, three executed instructions are allowed. -/
theorem test_ceiling_parameter_allows : run (State.launched (ceiling 3) [1, 0, 1, 0, 1, 0] 0 0 0) =
    { State.launched (ceiling 3) [1, 0, 1, 0, 1, 0] 0 0 0 with pc := 6, STEPS := 3, STATUS := .halted } := by decide

/-- V-T12: with a ceiling of 3, the fourth faults. -/
theorem test_ceiling_parameter_faults : run (State.launched (ceiling 3) [1, 0, 1, 0, 1, 0, 1, 0] 0 0 0) =
    { State.launched (ceiling 3) [1, 0, 1, 0, 1, 0, 1, 0] 0 0 0 with
      pc := 8, STEPS := 4, STATUS := .faulted, CAUSE := .runawayExecution } := by decide

/-- R142: the bounds of a launch, at their edges. -/
theorem test_launch_bounds :
    after (launch Config.spec ⟨35184372088831, 0, 0, [15]⟩) = some (mk 35184372088831 0 0 0 0 [15]) ∧
    after (launch Config.spec ⟨35184372088832, 0, 0, []⟩) = none ∧ after (launch Config.spec ⟨-1, 0, 0, []⟩) = none ∧
    after (launch Config.spec ⟨0, 0, 0, [16]⟩) = none ∧
    after (launch { Config.spec with TAPE_CAP := some 1 } ⟨0, 0, 0, [7, 7]⟩) = none ∧
    after (launch { Config.spec with CELLW := 46 } ⟨0, 0, 0, []⟩) = none := by decide

/-- The interface places the packed word 54 (octal) as the cells 5, 4 and runs it first after reset. -/
theorem test_withFetchWord : after (step (State.reset.withFetchWord 8 0o54)) =
    some { mk 0 0 0 2 1 [5, 4] with OUT := [0] } := by decide

/-! ### Witnesses: the hypotheses of each statement, met together -/

/-- A state of a run in progress, with everything in range. -/
def s0 : State := mk 729 45 3 0 99999 [0, 5, 8, 7]

theorem s0_inv : s0.Inv :=
  ⟨by decide, fun r => by cases r <;> decide, by decide, by decide, by decide, by decide, by decide, by decide,
    by decide, by decide, nofun, nofun⟩

theorem witness_DecodeReadsBackEveryEncoding :
    (Instr.adv (.reserved 7)).wellFormed = true ∧ (Instr.bxl 15).wellFormed = true ∧
    (Instr.cdv (.literal 3)).wellFormed = true ∧ (Instr.adv (.reserved 7)).fits 3 = true := by decide

theorem witness_EncodeRestoresBothDecodedCells : decode 0 7 = .ok (.adv (.reserved 7)) ∧ decode 4 15 = .ok (.bxc 15) ∧
    15 < 2 ^ 4 := by decide

theorem witness_OpcodeCellSelectsTheInstruction : (8 : Nat) ≤ 8 ∧ (8 : Nat) ≤ 15 := by decide

/-- A machine of the least widths and a tape memory of two cells, each launch value at its largest. -/
theorem witness_LaunchSetsEveryPieceOfState :
    let cfg : Config := { REGW := 3, CELLW := 3, STEP_CEILING := 0, TAPE_CAP := some 2 }
    3 ≤ cfg.CELLW ∧ cfg.CELLW ≤ cfg.REGW ∧ 7 < 2 ^ cfg.REGW ∧ (∀ x ∈ [7, 0], x < 2 ^ cfg.CELLW) ∧
      (∀ cap : Nat, cfg.TAPE_CAP = some cap → [7, 0].length ≤ cap) :=
  ⟨by decide, by decide, by decide, by decide, fun _ h => by cases h; decide⟩

theorem witness_LaunchOutsideTheBoundsIsRefused :
    (⟨-1, -1, -1, []⟩ : LaunchTuple).A0 < 0 ∧ (2 : Int) ^ 45 ≤ (⟨2 ^ 45, 0, 0, []⟩ : LaunchTuple).A0 ∧
    (⟨-1, -1, -1, []⟩ : LaunchTuple).B0 < 0 ∧ (2 : Int) ^ 45 ≤ (⟨0, 2 ^ 45, 0, []⟩ : LaunchTuple).B0 ∧
    (⟨-1, -1, -1, []⟩ : LaunchTuple).C0 < 0 ∧ (2 : Int) ^ 45 ≤ (⟨0, 0, 2 ^ 45, []⟩ : LaunchTuple).C0 ∧
    (∃ c ∈ (⟨0, 0, 0, [7, 16]⟩ : LaunchTuple).program, 2 ^ Config.spec.CELLW ≤ c) ∧
    ({ Config.spec with TAPE_CAP := some 1 }).TAPE_CAP = some 1 ∧ 1 < (⟨0, 0, 0, [7, 7]⟩ : LaunchTuple).program.length ∧
    ({ Config.spec with CELLW := 2 }).CELLW < 3 ∧ ({ Config.spec with REGW := 3 }).REGW < Config.spec.CELLW := by decide

theorem witness_LaunchedStatesMeetTheInvariant :
    launch Config.spec ⟨729, 0, 0, [0, 1, 5, 4, 3, 0]⟩ = .next (mk 729 0 0 0 0 [0, 1, 5, 4, 3, 0]) := rfl

/-- With the count at the ceiling and `pc` at its largest value. -/
theorem witness_CountersFitTheLeastWidths : (mk 0 0 0 15 100000 []).Inv :=
  ⟨by decide, fun r => by cases r <;> decide, by decide, by decide, by decide, by decide, by decide, by decide,
    by decide, by decide, nofun, nofun⟩

theorem witness_StepKeepsTheInvariant : s0.Inv ∧ step s0 = .next (mk 0 45 3 2 100000 [0, 5, 8, 7]) := ⟨s0_inv, rfl⟩

theorem witness_EveryRunEndsInOneOfFourWays : s0.Inv ∧ s0.STATUS = .run := ⟨s0_inv, rfl⟩

theorem witness_HaltCheckComesFirst_halts :
    (mk 0 0 0 0 0 []).STATUS = .run ∧ (mk 0 0 0 0 0 []).pc + 1 ≥ (mk 0 0 0 0 0 []).TAPE.length ∧
    (mk 0 0 0 1 0 [5, 9]).pc + 1 ≥ (mk 0 0 0 1 0 [5, 9]).TAPE.length ∧
    (mk 0 0 0 7 0 [5, 9]).pc + 1 ≥ (mk 0 0 0 7 0 [5, 9]).TAPE.length := by decide

theorem witness_HaltCheckComesFirst_runs :
    (mk 0 0 0 0 0 [1, 3]).pc + 1 < (mk 0 0 0 0 0 [1, 3]).TAPE.length ∧
    step (mk 0 0 0 0 0 [1, 3]) = .next (mk 0 3 0 2 1 [1, 3]) := ⟨by decide, rfl⟩

/-- At an odd index (P4). -/
theorem witness_StepRunsTheDecodedInstruction :
    (mk 10 0 0 3 1 [3, 3, 0, 5, 4, 1, 7]).STATUS = .run ∧
    (mk 10 0 0 3 1 [3, 3, 0, 5, 4, 1, 7]).TAPE[3]? = some 5 ∧ (mk 10 0 0 3 1 [3, 3, 0, 5, 4, 1, 7]).TAPE[4]? = some 4 ∧
    decode 5 4 = .ok (.out (.register .A)) := by decide

theorem witness_InvalidOpcode_raised :
    (mk 0 0 0 0 0 [8, 7]).TAPE[0]? = some 8 ∧ (mk 0 0 0 0 0 [8, 7]).TAPE[1]? = some 7 ∧ (8 : Nat) ≤ 8 := by decide

theorem witness_InvalidOpcode_only :
    (mk 0 0 0 0 0 [8, 7]).CAUSE ≠ .invalidOpcode ∧
    step (mk 0 0 0 0 0 [8, 7]) = .next ((mk 0 0 0 0 0 [8, 7]).raise .invalidOpcode) ∧
    ((mk 0 0 0 0 0 [8, 7]).raise .invalidOpcode).CAUSE = .invalidOpcode := ⟨by decide, rfl, rfl⟩

/-- One state for each clause of the order of the checks, the count at its boundary. -/
theorem witness_TickChecksComeInTheSpecsOrder :
    step (mk 0 0 0 1 100000 [8, 7]) = .next (mk 0 0 0 1 100000 [8, 7]).halt ∧
    step (mk 0 0 0 0 100000 [8, 7]) = .next ((mk 0 0 0 0 100000 [8, 7]).raise .invalidOpcode) ∧
    step (mk 0 0 0 0 100000 [7, 7]) = .next ((mk 0 0 0 0 100000 [7, 7]).raise .reservedOperand) ∧
    step (mk 0 0 0 0 100000 [4, 7]) = .next ((mk 0 0 0 2 100001 [4, 7]).raise .runawayExecution) ∧
    step (mk 0 0 0 0 99999 [7, 6]) = .next (mk 0 0 0 2 100000 [7, 6]) := ⟨rfl, rfl, rfl, rfl, rfl⟩

theorem witness_RunningMachineAlwaysHasANextState : State.reset.STATUS = .run := rfl

theorem witness_NoStepAfterTheRunHasEnded :
    s0.halt.STATUS = .halted ∧ (s0.raise .runawayExecution).STATUS = .faulted := ⟨rfl, rfl⟩

theorem witness_StepReadsNoCellButTheFetchedPair_pair :
    ([0, 5] : List Nat)[s0.pc]? = s0.TAPE[s0.pc]? ∧ ([0, 5] : List Nat)[s0.pc + 1]? = s0.TAPE[s0.pc + 1]? ∧
    step s0 = .next (mk 0 45 3 2 100000 [0, 5, 8, 7]) := ⟨rfl, rfl, rfl⟩

theorem witness_StepReadsNoCellButTheFetchedPair_none :
    (mk 0 0 0 1 0 [5, 9]).pc + 1 ≥ (mk 0 0 0 1 0 [5, 9]).TAPE.length ∧
    (mk 0 0 0 1 0 [5, 9]).pc + 1 ≥ ([5, 2] : List Nat).length ∧
    step (mk 0 0 0 1 0 [5, 9]) = .next (mk 0 0 0 1 0 [5, 9]).halt := ⟨by decide, by decide, rfl⟩

theorem witness_WidthsBoundTheLaunchValuesOnly :
    ({ REGW := 3, CELLW := 3, STEP_CEILING := 100000, TAPE_CAP := some 4 } : Config).STEP_CEILING = s0.CFG.STEP_CEILING ∧
    step s0 = .next (mk 0 45 3 2 100000 [0, 5, 8, 7]) := ⟨rfl, rfl⟩

theorem witness_WellFormedTapeNeverRaisesInvalidOpcode :
    tapeWellFormed (mk 0 0 0 0 0 [0, 7]).TAPE = true ∧ (mk 0 0 0 0 0 [0, 7]).CAUSE ≠ .invalidOpcode := by decide

/-- Each clause of operand resolution at its boundary. -/
theorem witness_ComboOperandResolvesAsTheSpecSays :
    comboValue (decodeCombo 0) s0 = some 0 ∧ comboValue (decodeCombo 3) s0 = some 3 ∧
    comboValue (decodeCombo 4) s0 = some 729 ∧ comboValue (decodeCombo 5) s0 = some 45 ∧
    comboValue (decodeCombo 6) s0 = some 3 ∧ comboValue (decodeCombo 7) s0 = none ∧
    comboValue (decodeCombo 8) s0 = none := by decide

/-- The hypotheses of the result statements of `adv`, `bdv`, `cdv`, `bst` and `out`, and the count below the ceiling
that those of `bxl`, `bxc`, `jnz` and of the shift of `A` by itself need. -/
theorem witness_operand_has_a_value_below_the_ceiling :
    comboValue (.register .C) s0 = some 3 ∧ comboValue (.literal 2) s0 = some 2 ∧
    s0.STEPS < s0.CFG.STEP_CEILING := by decide

theorem witness_CountOfTheRegisterWidthOrMoreGivesZero :
    comboValue (.register .B) s0 = some 45 ∧ s0.CFG.REGW ≤ 45 ∧ s0.A < 2 ^ s0.CFG.REGW ∧
    s0.STEPS < s0.CFG.STEP_CEILING := by decide

theorem witness_ReservedOperand_raised :
    Instr.out (.reserved 7) ∈
      [Instr.adv (.reserved 7), .bst (.reserved 7), .out (.reserved 7), .bdv (.reserved 7), .cdv (.reserved 7)] := by
  decide

theorem witness_ReservedOperand_only :
    s0.CAUSE ≠ .reservedOperand ∧ exec (.bdv (.reserved 9)) s0 = .next (s0.raise .reservedOperand) ∧
    (s0.raise .reservedOperand).CAUSE = .reservedOperand := ⟨by decide, rfl, rfl⟩

theorem witness_RunawayExecution_after_effect :
    (mk 8 0 0 0 100000 []).CFG.STEP_CEILING ≤ (mk 8 0 0 0 100000 []).STEPS ∧
    exec (.adv (.literal 1)) { mk 8 0 0 0 100000 [] with STEPS := 0 } = .next (mk 4 0 0 2 1 []) ∧
    (mk 4 0 0 2 1 []).STEPS = 1 := ⟨by decide, rfl, rfl⟩

theorem witness_RunawayExecution_not_below :
    s0.STEPS < s0.CFG.STEP_CEILING ∧ s0.CAUSE ≠ .runawayExecution ∧
    exec (.bxl 7) s0 = .next (mk 729 42 3 2 100000 [0, 5, 8, 7]) := ⟨by decide, by decide, rfl⟩

theorem witness_StepsCountsExecutedInstructionsOnly :
    s0.CAUSE = .none ∧ step s0 = .next (mk 0 45 3 2 100000 [0, 5, 8, 7]) ∧
    State.reset.CAUSE = .none ∧ step State.reset = .next State.reset.halt := ⟨rfl, rfl, rfl, rfl⟩

theorem witness_InstructionWritesOnlyWhatTheSpecLists :
    exec (.bxl 7) s0 = .next (mk 729 42 3 2 100000 [0, 5, 8, 7]) ∧ writesReg (.bxl 7) .A = false ∧
    ∀ o, Instr.bxl 7 ≠ .out o := ⟨rfl, rfl, nofun⟩

theorem witness_InstructionDependsOnlyOnTheRegistersItReads :
    readsReg (.bst (.register .C)) .B = false ∧
    exec (.bst (.register .C)) s0 = .next (mk 729 3 3 2 100000 [0, 5, 8, 7]) := ⟨rfl, rfl⟩

theorem witness_ProgramCounter_taken :
    exec (.jnz 15) s0 = .next { s0 with pc := 15, STEPS := 100000 } ∧ 100000 = s0.STEPS + 1 ∧
    s0.A ≠ 0 := ⟨rfl, rfl, by decide⟩

theorem witness_ProgramCounter_not_taken :
    exec (.jnz 15) (mk 0 0 0 4 0 []) = .next (mk 0 0 0 6 1 []) ∧
    (∀ k : Nat, Instr.jnz 15 = .jnz k → (mk 0 0 0 4 0 []).A = 0) := ⟨rfl, fun _ _ => rfl⟩

theorem witness_OutputStreamIsAppendOnly :
    exec (.out (.register .A)) s0 = .next { s0 with pc := 2, STEPS := 100000, OUT := [1] } ∧
    ([1] : List OutVal) ≠ s0.OUT :=
  ⟨rfl, by decide⟩

theorem witness_XorAppliedTwiceRestoresB :
    exec (.bxl 7) (mk 0 29 0 0 0 []) = .next (mk 0 26 0 2 1 []) ∧
    exec (.bxl 7) (mk 0 26 0 2 1 []) = .next (mk 0 29 0 4 2 []) ∧
    exec (.bxc 1) (mk 0 12 10 0 0 []) = .next (mk 0 6 10 2 1 []) ∧
    exec (.bxc 1) (mk 0 6 10 2 1 []) = .next (mk 0 12 10 4 2 []) := ⟨rfl, rfl, rfl, rfl⟩

theorem witness_BxlLeavesTheBitsAboveTheLiteral :
    (7 : Nat) ≤ 7 ∧ exec (.bxl 7) (mk 0 29 0 0 0 []) = .next (mk 0 26 0 2 1 []) := ⟨by decide, rfl⟩

theorem witness_ResultOfARunIsTheOutputOrTheFault :
    s0.halt.STATUS = .halted ∧ (s0.raise .invalidOpcode).STATUS = .faulted ∧ s0.Inv := ⟨rfl, rfl, s0_inv⟩

/-- The empty program reproduces itself with `A = 0`. -/
theorem witness_ReproducerAnswersReproduceTheProgram :
    reproduce Config.spec ⟨1, .abort, true⟩ [] 0 0 = .found 0 := by decide

end Sys2Proof.Tests
end

section
/-! The tape is never written (`20_memory.md` R41): an executed instruction, a step and a run each leave `TAPE` as it
is. -/

namespace Sys2Proof.Machine

/-- The induction over a run, packaged once: what every step keeps, every run keeps. -/
theorem runFor_keeps {P : State → Prop} (hstep : ∀ {s t : State}, step s = .next t → P s → P t) (n : Nat)
    {s : State} (hs : P s) : P (runFor n s) := by
  induction n generalizing s with
  | zero => exact hs
  | succ n ih =>
    rw [runFor]
    split
    next t ht => exact ih (hstep ht hs)
    · exact hs
    · exact hs

theorem exec_TAPE {i : Instr} {s t : State} (h : exec i s = .next t) : t.TAPE = s.TAPE := by
  obtain ⟨e, he, rfl⟩ | ⟨-, rfl⟩ := exec_next_cases h
  · obtain ⟨-, -, -, htape, -⟩ := effect_frame he
    rw [State.retire_TAPE, htape]
  · rw [State.raise_TAPE]

theorem step_TAPE {s t : State} (h : step s = .next t) : t.TAPE = s.TAPE := by
  obtain ⟨-, ⟨-, rfl⟩ | ⟨_, _, -, -, rfl⟩ | ⟨_, _, _, -, -, hexec⟩⟩ := step_next_cases h
  · rw [State.halt_TAPE]
  · rw [State.raise_TAPE]
  · exact exec_TAPE hexec

@[simp] theorem runFor_TAPE (n : Nat) (s : State) : (runFor n s).TAPE = s.TAPE :=
  runFor_keeps (P := fun t => t.TAPE = s.TAPE) (fun ht hs => (step_TAPE ht).trans hs) n rfl

/-- Settles O20: every step keeps the whole tape, so every run does, and with it the cell at each index. -/
theorem everyFetchReturnsTheLaunchValue : Obligations.EveryFetchReturnsTheLaunchValue := by
  intro n s i
  rw [runFor_TAPE]

end Sys2Proof.Machine
end

section
/-! What ends a tick (`40_tick_and_operands.md` R71) and where it leaves `pc` (R74): an instruction never halts the
machine, and one that is counted has had its effect, `pc` update included. -/

namespace Sys2Proof.Machine

/-- An instruction leaves `STATUS` or enters a fault: only the halt check of the tick halts (R71). -/
theorem exec_STATUS {i : Instr} {s t : State} (h : exec i s = .next t) :
    t.STATUS = s.STATUS ∨ t.STATUS = .faulted := by
  obtain ⟨e, he, rfl⟩ | ⟨-, rfl⟩ := exec_next_cases h
  · obtain ⟨-, hstatus, -⟩ := effect_frame he
    obtain ⟨-, hkept⟩ | ⟨-, hfault⟩ := e.retire_cause
    · exact .inl (hkept.trans hstatus)
    · exact .inr hfault
  · exact .inr (s.raise_STATUS _)

theorem step_of_no_pair {s : State} (hrun : s.STATUS = .run) (hend : s.pc + 1 ≥ s.TAPE.length) :
    step s = .next s.halt := by
  rw [step_of_run hrun, tick_of_none (s.fetch_eq_none_iff.mpr hend)]

theorem step_not_halted_of_pair {s t : State} (hpair : s.pc + 1 < s.TAPE.length) (h : step s = .next t) :
    t.STATUS ≠ .halted := by
  obtain ⟨hrun, ⟨hnone, -⟩ | ⟨_, _, -, -, rfl⟩ | ⟨_, _, _, -, -, hexec⟩⟩ := step_next_cases h
  · exact absurd (s.fetch_eq_none_iff.mp hnone) (by omega)
  · simp
  · obtain hkept | hfault := exec_STATUS hexec
    · simp [hkept, hrun]
    · simp [hfault]

/-- Settles O13: without a pair the tick is `halt`; with one, it raises `InvalidOpcode` or executes an instruction,
and neither of these halts. -/
theorem haltCheckComesFirstAndChangesNothingElse : Obligations.HaltCheckComesFirstAndChangesNothingElse :=
  fun _ hrun => ⟨step_of_no_pair hrun, fun hpair _ => step_not_halted_of_pair hpair⟩

/-- A counted instruction is one that executed: the entry to `ReservedOperand` does not count (R16). -/
theorem exec_next_of_counted {i : Instr} {s t : State} (h : exec i s = .next t) (hcount : t.STEPS = s.STEPS + 1) :
    ∃ e, effect i s = some e ∧ t = e.retire := by
  obtain hexecuted | ⟨-, rfl⟩ := exec_next_cases h
  · exact hexecuted
  · rw [State.raise_STEPS] at hcount
    omega

theorem effect_jnz_taken {s : State} (k : Nat) (hA : s.A ≠ 0) : effect (.jnz k) s = some (s.jumpTo k) := by
  rw [effect, if_pos ((aNonZero_iff s).mpr hA), literalIndex_eq]

/-- Settles O36: a counted instruction leaves `pc` where its effect does, at the literal under a `jnz` that is taken
and 2 further in every other case. -/
theorem programCounterIsTheLiteralOrAdvancesByTwo : Obligations.ProgramCounterIsTheLiteralOrAdvancesByTwo := by
  intro i s t h hcount
  obtain ⟨e, he, rfl⟩ := exec_next_of_counted h hcount
  rw [State.retire_pc]
  constructor
  · rintro k rfl hA
    rw [effect_jnz_taken k hA] at he
    cases he
    rfl
  · intro hnot
    obtain hadvance | ⟨k, hjnz, hA, -⟩ := effect_pc he
    · exact hadvance
    · exact absurd (hnot k hjnz) hA

end Sys2Proof.Machine
end

section
/-! The fault `InvalidOpcode` (`60_exceptions.md` R121): the tick raises it before the instruction is looked at, and
no executed instruction can. -/

namespace Sys2Proof.Machine

theorem step_of_opcode_ge {s : State} {op k : Nat} (hrun : s.STATUS = .run) (hfetch : s.fetch = some (op, k))
    (hge : 8 ≤ op) : step s = .next (s.raise .invalidOpcode) := by
  rw [step_of_run hrun, tick_of_error hfetch (decode_of_ge op k hge)]

/-- An instruction leaves `CAUSE` or enters one of the two faults that are its own (R122, R123). -/
theorem exec_CAUSE {i : Instr} {s t : State} (h : exec i s = .next t) :
    t.CAUSE = s.CAUSE ∨ t.CAUSE = .reservedOperand ∨ t.CAUSE = .runawayExecution := by
  obtain ⟨e, he, rfl⟩ | ⟨-, rfl⟩ := exec_next_cases h
  · obtain ⟨-, -, hcause, -⟩ := effect_frame he
    obtain ⟨hkept, -⟩ | ⟨hrunaway, -⟩ := e.retire_cause
    · exact .inl (hkept.trans hcause)
    · exact .inr (.inr hrunaway)
  · exact .inr (.inl (s.raise_CAUSE _))

/-- A step that raises `InvalidOpcode` has fetched an opcode cell of 8 or more (R121). -/
theorem step_raises_invalidOpcode {s t : State} (hs : s.CAUSE ≠ .invalidOpcode) (h : step s = .next t)
    (ht : t.CAUSE = .invalidOpcode) : ∃ op k, s.fetch = some (op, k) ∧ 8 ≤ op := by
  obtain ⟨-, ⟨-, rfl⟩ | ⟨op, k, hfetch, hge, -⟩ | ⟨_, _, _, -, -, hexec⟩⟩ := step_next_cases h
  · exact absurd (s.halt_CAUSE.symm.trans ht) hs
  · exact ⟨op, k, hfetch, hge⟩
  · obtain hkept | hother | hother := exec_CAUSE hexec
    · exact absurd (hkept.symm.trans ht) hs
    · cases hother.symm.trans ht
    · cases hother.symm.trans ht

/-- Settles O15: a fetched opcode cell of 8 or more makes the tick the bare fault entry; conversely neither the halt
nor an executed instruction can have raised the fault, so the cell was 8 or more. -/
theorem invalidOpcodeExactlyOnAnOpcodeCellOfEightOrMore :
    Obligations.InvalidOpcodeExactlyOnAnOpcodeCellOfEightOrMore := by
  intro s hrun
  constructor
  · intro op k hop hk hge
    exact step_of_opcode_ge hrun ((s.fetch_eq_some_iff op k).mpr ⟨hop, hk⟩) hge
  · intro t hs h ht
    obtain ⟨op, k, hfetch, hge⟩ := step_raises_invalidOpcode hs h ht
    obtain ⟨hop, hk⟩ := (s.fetch_eq_some_iff op k).mp hfetch
    exact ⟨op, k, hop, hk, hge⟩

end Sys2Proof.Machine
end

section
/-! The end of a run (`70_reset_and_hazards.md` R145). Every step that leaves the machine running adds 1 to a count
that is below the ceiling, so `run` has ticks enough for any run to end, from any state. -/

namespace Sys2Proof.Machine

/-! ### What the host sees, by `STATUS` -/

theorem hostResult_of_run {s : State} (h : s.STATUS = .run) : hostResult s = none := by
  rw [hostResult, h]

theorem hostResult_of_halted {s : State} (h : s.STATUS = .halted) : hostResult s = some (.output s.OUT) := by
  rw [hostResult, h]

theorem hostResult_of_faulted {s : State} (h : s.STATUS = .faulted) : hostResult s = some (.fault s.CAUSE) := by
  rw [hostResult, h]

theorem hostResult_eq_none_iff (s : State) : hostResult s = none ↔ s.STATUS = .run := by
  cases h : s.STATUS with
  | run => simp [hostResult_of_run h]
  | halted => simp [hostResult_of_halted h]
  | faulted => simp [hostResult_of_faulted h]

theorem hostResult_eq_output_iff (s : State) (vs : List OutVal) :
    hostResult s = some (.output vs) ↔ s.STATUS = .halted ∧ vs = s.OUT := by
  cases h : s.STATUS with
  | run => simp [hostResult_of_run h]
  | halted => simp [hostResult_of_halted h, eq_comm]
  | faulted => simp [hostResult_of_faulted h]

theorem hostResult_eq_fault_iff (s : State) (c : Cause) :
    hostResult s = some (.fault c) ↔ s.STATUS = .faulted ∧ c = s.CAUSE := by
  cases h : s.STATUS with
  | run => simp [hostResult_of_run h]
  | halted => simp [hostResult_of_halted h]
  | faulted => simp [hostResult_of_faulted h, eq_comm]

/-! ### Every run ends -/

theorem exists_step_of_run {s : State} (hrun : s.STATUS = .run) : ∃ t, step s = .next t := by
  rw [step_of_run hrun]
  cases hf : s.fetch with
  | none => exact ⟨_, tick_of_none hf⟩
  | some p =>
    obtain ⟨op, k⟩ := p
    cases hd : decode op k with
    | ok i => exact ⟨_, (tick_of_ok hf hd).trans (exec_eq i s)⟩
    | error r => exact ⟨_, tick_of_error hf (decode_of_ge op k (decode_eq_error hd))⟩

theorem State.steps_lt_of_retire_run {s : State} (h : s.retire.STATUS = .run) : s.STEPS < s.CFG.STEP_CEILING := by
  by_contra hge
  rw [s.retire_of_ge (Nat.le_of_not_lt hge)] at h
  cases h

/-- A step that leaves the machine running has executed an instruction, counted it (R16) and found the count below
the ceiling (R75): a halt and both decode faults end the run. -/
theorem step_counts_of_run {s t : State} (h : step s = .next t) (ht : t.STATUS = .run) :
    t.STEPS = s.STEPS + 1 ∧ t.CFG = s.CFG ∧ s.STEPS < s.CFG.STEP_CEILING := by
  obtain ⟨-, ⟨-, rfl⟩ | ⟨_, _, -, -, rfl⟩ | ⟨_, _, _, -, -, hexec⟩⟩ := step_next_cases h
  · cases ht
  · cases ht
  · obtain ⟨e, he, rfl⟩ | ⟨-, rfl⟩ := exec_next_cases hexec
    · obtain ⟨hsteps, -, -, -, hcfg⟩ := effect_frame he
      have hlt := State.steps_lt_of_retire_run ht
      rw [State.retire_STEPS, State.retire_CFG, ← hsteps, ← hcfg]
      exact ⟨rfl, rfl, hlt⟩
    · cases ht

theorem runFor_succ_of_next {s t : State} (n : Nat) (h : step s = .next t) : runFor (n + 1) s = runFor n t := by
  rw [runFor, h]

/-- A run that has ended stays ended. -/
theorem runFor_ended {s : State} (n : Nat) (h : s.STATUS ≠ .run) : (runFor n s).STATUS ≠ .run :=
  runFor_keeps (P := fun t => t.STATUS ≠ .run) (fun hstep hs => absurd (step_next_cases hstep).1 hs) n h

/-- A run of one tick more has ended if it has from every state that the first step leaves running. -/
theorem runFor_succ_ended {s : State} {n : Nat}
    (hrest : ∀ t, step s = .next t → t.STATUS = .run → (runFor n t).STATUS ≠ .run) :
    (runFor (n + 1) s).STATUS ≠ .run := by
  by_cases hrun : s.STATUS = .run
  · obtain ⟨t, ht⟩ := exists_step_of_run hrun
    rw [runFor_succ_of_next n ht]
    by_cases htrun : t.STATUS = .run
    · exact hrest t ht htrun
    · exact runFor_ended n htrun
  · exact runFor_ended (n + 1) hrun

/-- One tick more than the count has room below the ceiling ends the run (R76). -/
theorem runFor_ended_of_ceiling_le (n : Nat) {s : State} (h : s.CFG.STEP_CEILING ≤ s.STEPS + n) :
    (runFor (n + 1) s).STATUS ≠ .run := by
  induction n generalizing s with
  | zero =>
    refine runFor_succ_ended fun t ht htrun => ?_
    obtain ⟨-, -, hlt⟩ := step_counts_of_run ht htrun
    omega
  | succ n ih =>
    refine runFor_succ_ended fun t ht htrun => ih ?_
    obtain ⟨hsteps, hcfg, -⟩ := step_counts_of_run ht htrun
    rw [hcfg, hsteps]
    omega

theorem run_ended (s : State) : (run s).STATUS ≠ .run :=
  runFor_ended_of_ceiling_le (s.CFG.STEP_CEILING + 1) (by omega)

/-- Settles O42: the three clauses on the result are `hostResult` by `STATUS`; the last is that `run` ends in a state
that is not `RUN`. -/
theorem resultOfARunIsTheOutputOrTheFault : Obligations.ResultOfARunIsTheOutputOrTheFault := fun s =>
  ⟨hostResult_eq_none_iff s, hostResult_eq_output_iff s, hostResult_eq_fault_iff s,
    fun _ hnone => run_ended s ((hostResult_eq_none_iff (run s)).mp hnone)⟩

end Sys2Proof.Machine
end

section
/-! Decoder and encoder are inverse to each other (`30_encoding.md` sections 1 to 3). -/

namespace Sys2Proof

theorem decode_encode {i : Instr} (h : i.wellFormed = true) : decode (encode i).1 (encode i).2 = .ok i := by
  cases i with
  | bxl k | jnz k | bxc k => rfl
  | adv o | bst o | out o | bdv o | cdv o => simp [encode, decode, decodeCombo_encodeCombo o h]

theorem encode_opcode_lt (i : Instr) : (encode i).1 < 8 := by
  cases i <;> simp [encode]

theorem encode_operand_lt {i : Instr} {w : Nat} (hw : 3 ≤ w) (h : i.fits w = true) : (encode i).2 < 2 ^ w := by
  cases i with
  | bxl k | jnz k | bxc k => exact of_decide_eq_true h
  | adv o | bst o | out o | bdv o | cdv o => exact encodeCombo_lt hw h

/-- Settles O1: the operand is read back in its form (`decode_encode`), the opcode cell is below 8 and so below `2^w`,
and the operand cell fits where the instruction does. -/
theorem decodeReadsBackEveryEncoding : Obligations.DecodeReadsBackEveryEncoding := by
  intro i hwf
  refine ⟨decode_encode hwf, fun w hw hfits => ⟨?_, encode_operand_lt hw hfits⟩⟩
  calc (encode i).1 < 2 ^ 3 := encode_opcode_lt i
    _ ≤ 2 ^ w := Nat.pow_le_pow_right (by decide) hw

theorem wellFormed_of_decode {op k : Nat} {i : Instr} (h : decode op k = .ok i) : i.wellFormed = true := by
  rcases decode_eq_ok op k i h with
    ⟨-, rfl⟩ | ⟨-, rfl⟩ | ⟨-, rfl⟩ | ⟨-, rfl⟩ | ⟨-, rfl⟩ | ⟨-, rfl⟩ | ⟨-, rfl⟩ | ⟨-, rfl⟩ <;>
    simp [Instr.wellFormed, decodeCombo_wellFormed]

theorem encode_of_decode {op k : Nat} {i : Instr} (h : decode op k = .ok i) : encode i = (op, k) := by
  rcases decode_eq_ok op k i h with
    ⟨rfl, rfl⟩ | ⟨rfl, rfl⟩ | ⟨rfl, rfl⟩ | ⟨rfl, rfl⟩ | ⟨rfl, rfl⟩ | ⟨rfl, rfl⟩ | ⟨rfl, rfl⟩ | ⟨rfl, rfl⟩ <;>
    simp [encode, encodeCombo_decodeCombo]

theorem fits_of_decode {op k w : Nat} {i : Instr} (h : decode op k = .ok i) (hk : k < 2 ^ w) : i.fits w = true := by
  rcases decode_eq_ok op k i h with
    ⟨-, rfl⟩ | ⟨-, rfl⟩ | ⟨-, rfl⟩ | ⟨-, rfl⟩ | ⟨-, rfl⟩ | ⟨-, rfl⟩ | ⟨-, rfl⟩ | ⟨-, rfl⟩ <;>
    simp [Instr.fits, decodeCombo_fits, hk]

/-- Settles O2: of the eight decoded forms each keeps the operand cell, as itself or as the form it encodes to. -/
theorem encodeRestoresBothDecodedCells : Obligations.EncodeRestoresBothDecodedCells := fun _ _ _ h =>
  ⟨wellFormed_of_decode h, encode_of_decode h, fun _ hk => fits_of_decode h hk⟩

/-- Settles O3: the decoder's table row by row, and its rejection of every opcode cell above the table. -/
theorem opcodeCellSelectsTheInstruction : Obligations.OpcodeCellSelectsTheInstruction := fun k =>
  ⟨rfl, rfl, rfl, rfl, rfl, rfl, rfl, rfl, fun op hop => decode_of_ge op k hop⟩

/-- Settles O4: each of the nine words, decoded. -/
theorem writtenWordsDecodeAsTheTableSays : Obligations.WrittenWordsDecodeAsTheTableSays := by
  refine ⟨?_, ?_, ?_, ?_, ?_, ?_, ?_, ?_, ?_⟩ <;> decide

/-- Settles O5: the 64 words, decoded. -/
theorem fiftyNinePackedWordsAreLegal : Obligations.FiftyNinePackedWordsAreLegal := by
  refine ⟨?_, ?_, ?_⟩ <;> decide

/-- Settles O6. -/
theorem statusAndCauseHaveTheSpecsCodes : Obligations.StatusAndCauseHaveTheSpecsCodes :=
  ⟨rfl, rfl, rfl, rfl, rfl, rfl, rfl⟩

/-- An opcode cell below 8 has an instruction. -/
theorem exists_decode_of_lt {op : Nat} (k : Nat) (h : op < 8) : ∃ i, decode op k = .ok i := by
  cases hd : decode op k with
  | ok i => exact ⟨i, rfl⟩
  | error r => exact absurd (decode_eq_error hd) (by omega)

namespace Machine

/-- Settles O22: the value of each of the five forms that a cell can have. -/
theorem comboOperandResolvesAsTheSpecSays : Obligations.ComboOperandResolvesAsTheSpecSays := by
  intro k s
  obtain ⟨hk, hform⟩ | ⟨rfl, -⟩ | ⟨rfl, -⟩ | ⟨rfl, -⟩ | ⟨hk, hform⟩ := decodeCombo_cases k
  · rw [hform, comboValue_literal, if_pos hk, BitVec.toNat_ofNat, Nat.mod_eq_of_lt (by omega)]
  · rfl
  · rfl
  · rfl
  · rw [hform, comboValue_reserved, if_neg (by omega), if_neg (by omega), if_neg (by omega), if_neg (by omega)]

theorem comboValue_decodeCombo_eq_none_iff (k : Nat) (s : State) :
    comboValue (decodeCombo k) s = none ↔ 7 ≤ k := by
  rw [comboValue_eq_none_iff]
  constructor
  · rintro ⟨r, hr⟩
    exact (decodeCombo_eq_reserved hr).2
  · intro hk
    exact ⟨k, decodeCombo_of_ge hk⟩

end Machine

end Sys2Proof
end

section
/-! Launch (`70_reset_and_hazards.md` section 1): admitted exactly within the bounds, refused everywhere else. -/

namespace Sys2Proof.Machine

theorem launch_of_admitted {cfg : Config} {l : LaunchTuple} (h : launchAdmitted cfg l = true) :
    launch cfg l = .next (State.launched cfg l.program l.A0.toNat l.B0.toNat l.C0.toNat) := by
  rw [launch, if_pos h]

theorem launch_next_or_refused (cfg : Config) (l : LaunchTuple) :
    (∃ s, launch cfg l = .next s) ∨ launch cfg l = .refused .launchNotAdmitted := by
  by_cases h : launchAdmitted cfg l = true
  · exact .inl ⟨_, launch_of_admitted h⟩
  · exact .inr (by rw [launch, if_neg h])

theorem tapeAdmitted_iff (cfg : Config) (tape : List Nat) :
    tapeAdmitted cfg tape = true ↔
      (∀ c ∈ tape, c < 2 ^ cfg.CELLW) ∧ ∀ cap, cfg.TAPE_CAP = some cap → tape.length ≤ cap := by
  simp [tapeAdmitted, Option.all_eq_true]

theorem regAdmitted_natCast {cfg : Config} {n : Nat} (h : n < 2 ^ cfg.REGW) : regAdmitted cfg n = true := by
  simp [regAdmitted, h]

/-- Settles O7: the bounds are those that `launchAdmitted` checks, and an admitted launch is `State.launched`. -/
theorem launchSetsEveryPieceOfState : Obligations.LaunchSetsEveryPieceOfState := by
  intro cfg a b c tape hcell hreg ha hb hc htape hcap
  have hadmitted : launchAdmitted cfg { A0 := a, B0 := b, C0 := c, program := tape } = true := by
    simp [launchAdmitted, Config.admitted, hcell, hreg, regAdmitted_natCast ha, regAdmitted_natCast hb,
      regAdmitted_natCast hc, (tapeAdmitted_iff cfg tape).mpr ⟨htape, hcap⟩]
  exact launch_of_admitted hadmitted

/-- Settles O8: a launch that is not refused meets every bound, so each of the ten breaches contradicts one. -/
theorem launchOutsideTheBoundsIsRefused : Obligations.LaunchOutsideTheBoundsIsRefused := by
  intro cfg l hout
  obtain ⟨s, hs⟩ | hrefused := launch_next_or_refused cfg l
  · obtain ⟨hcfg, hA, hB, hC, hcells, hcap, -⟩ := launch_next_cases hs
    have hpow : ((2 ^ cfg.REGW : Nat) : Int) = 2 ^ cfg.REGW := by push_cast; rfl
    obtain h | h | h | h | h | h | ⟨x, hx, h⟩ | ⟨cap, hsome, h⟩ | h | h := hout
    on_goal 7 => have hlt := hcells x hx
    on_goal 8 => have hle := hcap cap hsome
    all_goals omega
  · exact hrefused

/-- Settles O9: reset is `State.launched` of the empty tape, with zeros. -/
theorem resetIsTheLaunchOfAnEmptyTape : Obligations.ResetIsTheLaunchOfAnEmptyTape :=
  ⟨rfl, rfl, rfl, rfl, rfl, rfl, rfl, rfl, rfl, rfl⟩

end Sys2Proof.Machine
end

section
/-! `exec` through `effect`: an instruction with an effect is that effect, counted; one without raises
`ReservedOperand` (`60_exceptions.md` R122, R123). -/

namespace Sys2Proof.Machine

theorem exec_of_effect {i : Instr} {s e : State} (h : effect i s = some e) : exec i s = .next e.retire := by
  rw [exec_eq, h]

theorem exec_of_no_effect {i : Instr} {s : State} (h : effect i s = none) :
    exec i s = .next (s.raise .reservedOperand) := by
  rw [exec_eq, h]

/-- Below the ceiling an instruction is its effect and 1 more step (R75). -/
theorem exec_of_effect_of_lt {i : Instr} {s e : State} (h : effect i s = some e)
    (hlt : s.STEPS < s.CFG.STEP_CEILING) : exec i s = .next { e with STEPS := s.STEPS + 1 } := by
  obtain ⟨hsteps, -, -, -, hcfg⟩ := effect_frame h
  rw [exec_of_effect h, e.retire_of_lt (by rwa [hsteps, hcfg]), hsteps]

/-- At the ceiling or above it the fault comes with the effect and the count (R123). -/
theorem exec_of_effect_of_ge {i : Instr} {s e : State} (h : effect i s = some e)
    (hge : s.CFG.STEP_CEILING ≤ s.STEPS) :
    exec i s = .next { e with STEPS := s.STEPS + 1, CAUSE := .runawayExecution, STATUS := .faulted } := by
  obtain ⟨hsteps, -, -, -, hcfg⟩ := effect_frame h
  rw [exec_of_effect h, e.retire_of_ge (by rwa [hsteps, hcfg]), hsteps]

/-- Settles O31: with a reserved operand `exec` is the bare fault entry; conversely a cause `ReservedOperand` that was
not there before is neither kept by the effect nor written by the count, so there was no effect. -/
theorem reservedOperandIsRaisedBeforeAnyEffect : Obligations.ReservedOperandIsRaisedBeforeAnyEffect := by
  intro s
  constructor
  · intro k i hi
    have hnone : effect i s = none := by
      simp only [List.mem_cons, List.not_mem_nil, or_false] at hi
      obtain rfl | rfl | rfl | rfl | rfl := hi <;> rfl
    exact exec_of_no_effect hnone
  · intro i t hs h ht
    obtain ⟨e, he, rfl⟩ | ⟨hnone, -⟩ := exec_next_cases h
    · obtain ⟨-, -, hcause, -⟩ := effect_frame he
      obtain ⟨hkept, -⟩ | ⟨hrunaway, -⟩ := e.retire_cause
      · exact absurd (hcause.symm.trans (hkept.symm.trans ht)) hs
      · cases hrunaway.symm.trans ht
    · obtain ⟨k, hi⟩ := effect_eq_none hnone
      exact ⟨k, by simpa using hi⟩

end Sys2Proof.Machine
end

section
/-! The eight instructions below the ceiling: the effect of each, counted (`41_divide.md` to `44_output.md`). -/

namespace Sys2Proof.Machine

/-- Settles O23: the effect of `adv` writes the shifted `A`, and the shift is the floor division. -/
theorem advWritesTheQuotientToA : Obligations.AdvWritesTheQuotientToA := by
  intro o s v hv hlt
  have he : effect (.adv o) s = some (s.setA (s.A / 2 ^ v)).advance := by
    rw [effect, hv, Option.map_some, shiftRight_eq]
  exact exec_of_effect_of_lt he hlt

/-- Settles O24: as `adv`, with `B` as the register written. -/
theorem bdvWritesTheQuotientToB : Obligations.BdvWritesTheQuotientToB := by
  intro o s v hv hlt
  have he : effect (.bdv o) s = some (s.setB (s.A / 2 ^ v)).advance := by
    rw [effect, hv, Option.map_some, shiftRight_eq]
  exact exec_of_effect_of_lt he hlt

/-- Settles O25: as `adv`, with `C` as the register written. -/
theorem cdvWritesTheQuotientToC : Obligations.CdvWritesTheQuotientToC := by
  intro o s v hv hlt
  have he : effect (.cdv o) s = some (s.setC (s.A / 2 ^ v)).advance := by
    rw [effect, hv, Option.map_some, shiftRight_eq]
  exact exec_of_effect_of_lt he hlt

/-- Settles O26: the effect of `bxl` needs no resolution. -/
theorem bxlXorsTheLiteralIntoB : Obligations.BxlXorsTheLiteralIntoB := fun k s hlt =>
  exec_of_effect_of_lt (i := .bxl k) (e := (s.setB (s.B ^^^ k)).advance) rfl hlt

/-- Settles O27: the effect of `bst` writes the resolved value modulo 8. -/
theorem bstWritesTheValueModuloEightToB : Obligations.BstWritesTheValueModuloEightToB := by
  intro o s v hv hlt
  have he : effect (.bst o) s = some (s.setB (v % 8)).advance := by
    rw [effect, hv, Option.map_some, mod8Word_eq]
  exact exec_of_effect_of_lt he hlt

/-- Settles O28: the effect of `bxc` does not look at its operand. -/
theorem bxcXorsCIntoBWhateverTheOperand : Obligations.BxcXorsCIntoBWhateverTheOperand := fun k s hlt =>
  exec_of_effect_of_lt (i := .bxc k) (e := (s.setB (s.B ^^^ s.C)).advance) rfl hlt

theorem effect_jnz_not_taken {s : State} (k : Nat) (hA : s.A = 0) : effect (.jnz k) s = some s.advance := by
  rw [effect, if_neg (by simp [aNonZero, hA])]

/-- Settles O29: the two branches of `jnz`. -/
theorem jnzJumpsToTheLiteralWhenAIsNotZero : Obligations.JnzJumpsToTheLiteralWhenAIsNotZero := by
  intro k s
  refine ⟨rfl, fun hlt => ?_⟩
  by_cases hA : s.A = 0
  · rw [if_pos hA]
    exact exec_of_effect_of_lt (effect_jnz_not_taken k hA) hlt
  · rw [if_neg hA]
    exact exec_of_effect_of_lt (effect_jnz_taken k hA) hlt

/-- Settles O30: the effect of `out` appends the resolved value modulo 8. -/
theorem outAppendsTheValueModuloEight : Obligations.OutAppendsTheValueModuloEight := by
  intro o s v hv hlt
  have he : effect (.out o) s = some (s.outAppend (BitVec.ofNat 3 (v % 8))).advance := by
    rw [effect, hv, Option.map_some, mod8_eq]
  exact exec_of_effect_of_lt he hlt

/-! ### Corner cases -/

/-- A count above the top bit of `A` shifts every bit out (R83). -/
theorem divide_gives_zero {o : ComboOperand} {s : State} {v : Nat} (hv : comboValue o s = some v)
    (hbig : s.A < 2 ^ v) (hlt : s.STEPS < s.CFG.STEP_CEILING) :
    exec (.adv o) s = .next { s with A := 0, pc := s.pc + 2, STEPS := s.STEPS + 1 } ∧
    exec (.bdv o) s = .next { s with B := 0, pc := s.pc + 2, STEPS := s.STEPS + 1 } ∧
    exec (.cdv o) s = .next { s with C := 0, pc := s.pc + 2, STEPS := s.STEPS + 1 } := by
  rw [advWritesTheQuotientToA o s v hv hlt, bdvWritesTheQuotientToB o s v hv hlt,
    cdvWritesTheQuotientToC o s v hv hlt, Nat.div_eq_of_lt hbig]
  exact ⟨rfl, rfl, rfl⟩

/-- Settles O38: the count `A` is above the top bit of `A`. -/
theorem shiftOfAByItselfGivesZero : Obligations.ShiftOfAByItselfGivesZero := fun _ hlt =>
  divide_gives_zero rfl Nat.lt_two_pow_self hlt

/-- Settles O39: a count of `REGW` or more is above the top bit of every `A` in range. -/
theorem countOfTheRegisterWidthOrMoreGivesZero : Obligations.CountOfTheRegisterWidthOrMoreGivesZero := by
  intro o s v hA hv hwidth hlt
  have hbig : s.A < 2 ^ v := hA.trans_le (Nat.pow_le_pow_right (by decide) hwidth)
  exact divide_gives_zero hv hbig hlt

theorem exec_bxl {k : Nat} {s t : State} (h : exec (.bxl k) s = .next t) : t = (s.setB (s.B ^^^ k)).advance.retire := by
  cases h
  rfl

theorem exec_bxc {k : Nat} {s t : State} (h : exec (.bxc k) s = .next t) :
    t = (s.setB (s.B ^^^ s.C)).advance.retire := by
  cases h
  rfl

/-- Settles O40: the second exclusive-or is with the same value, the literal or the unchanged `C`. -/
theorem xorAppliedTwiceRestoresB : Obligations.XorAppliedTwiceRestoresB := by
  rintro i s t u ⟨k, rfl | rfl⟩ hst htu
  · obtain rfl := exec_bxl hst
    obtain rfl := exec_bxl htu
    simp
  · obtain rfl := exec_bxc hst
    obtain rfl := exec_bxc htu
    simp

/-- Settles O41: a literal below `2^3` has no bit there to flip. -/
theorem bxlLeavesTheBitsAboveTheLiteral : Obligations.BxlLeavesTheBitsAboveTheLiteral := by
  intro k s t n hk hn h
  obtain rfl := exec_bxl h
  have hbit : k.testBit n = false := by
    apply Nat.testBit_lt_two_pow
    calc k < 2 ^ 3 := by omega
      _ ≤ 2 ^ n := Nat.pow_le_pow_right (by decide) hn
  simp [Nat.testBit_xor, hbit]

end Sys2Proof.Machine
end

section
/-! What an instruction writes, and on what it depends (`10_state.md` R12, R19). -/

namespace Sys2Proof.Machine

theorem readReg_setA_of_ne (s : State) (v : Nat) {r : Reg} (h : r ≠ .A) : readReg (s.setA v) r = readReg s r := by
  cases r with
  | A => exact absurd rfl h
  | B | C => rfl

theorem readReg_setB_of_ne (s : State) (v : Nat) {r : Reg} (h : r ≠ .B) : readReg (s.setB v) r = readReg s r := by
  cases r with
  | B => exact absurd rfl h
  | A | C => rfl

theorem readReg_setC_of_ne (s : State) (v : Nat) {r : Reg} (h : r ≠ .C) : readReg (s.setC v) r = readReg s r := by
  cases r with
  | C => exact absurd rfl h
  | A | B => rfl

@[simp] theorem readReg_advance (s : State) (r : Reg) : readReg s.advance r = readReg s r := by
  cases r <;> rfl

@[simp] theorem readReg_jumpTo (s : State) (n : Nat) (r : Reg) : readReg (s.jumpTo n) r = readReg s r := by
  cases r <;> rfl

@[simp] theorem readReg_outAppend (s : State) (v : OutVal) (r : Reg) : readReg (s.outAppend v) r = readReg s r := by
  cases r <;> rfl

@[simp] theorem readReg_retire (s : State) (r : Reg) : readReg s.retire r = readReg s r := by
  cases r <;> simp

@[simp] theorem readReg_raise (s : State) (c : Cause) (r : Reg) : readReg (s.raise c) r = readReg s r := by
  cases r <;> rfl

@[simp] theorem readReg_halt (s : State) (r : Reg) : readReg s.halt r = readReg s r := by
  cases r <;> rfl

theorem effect_readReg {i : Instr} {s e : State} {r : Reg} (he : effect i s = some e)
    (hr : writesReg i r = false) : readReg e r = readReg s r := by
  cases i with
  | bxl k | bxc k =>
    cases he
    rw [readReg_advance, readReg_setB_of_ne _ _ (of_decide_eq_false hr)]
  | jnz k =>
    cases he
    split
    · exact readReg_jumpTo s _ r
    · exact readReg_advance s r
  | out o =>
    obtain ⟨v, -, rfl⟩ := Option.map_eq_some_iff.mp he
    rw [readReg_advance, readReg_outAppend]
  | adv o =>
    obtain ⟨v, -, rfl⟩ := Option.map_eq_some_iff.mp he
    rw [readReg_advance, readReg_setA_of_ne _ _ (of_decide_eq_false hr)]
  | bst o | bdv o =>
    obtain ⟨v, -, rfl⟩ := Option.map_eq_some_iff.mp he
    rw [readReg_advance, readReg_setB_of_ne _ _ (of_decide_eq_false hr)]
  | cdv o =>
    obtain ⟨v, -, rfl⟩ := Option.map_eq_some_iff.mp he
    rw [readReg_advance, readReg_setC_of_ne _ _ (of_decide_eq_false hr)]

/-- Only `out` has an effect on `OUT`: it appends its value modulo 8 (R110). -/
theorem effect_OUT_cases {i : Instr} {s e : State} (he : effect i s = some e) :
    e.OUT = s.OUT ∨ ∃ o v, i = .out o ∧ comboValue o s = some v ∧ e.OUT = s.OUT ++ [BitVec.ofNat 3 (v % 8)] := by
  cases i with
  | bxl k | bxc k =>
    cases he
    exact .inl rfl
  | jnz k =>
    cases he
    left
    split <;> rfl
  | out o =>
    obtain ⟨v, hv, rfl⟩ := Option.map_eq_some_iff.mp he
    exact .inr ⟨o, v, rfl, hv, rfl⟩
  | adv o | bst o | bdv o | cdv o =>
    obtain ⟨v, -, rfl⟩ := Option.map_eq_some_iff.mp he
    exact .inl rfl

theorem exec_OUT_cases {i : Instr} {s t : State} (h : exec i s = .next t) :
    t.OUT = s.OUT ∨ ∃ o v, i = .out o ∧ comboValue o s = some v ∧ t.OUT = s.OUT ++ [BitVec.ofNat 3 (v % 8)] := by
  obtain ⟨e, he, rfl⟩ | ⟨-, rfl⟩ := exec_next_cases h
  · rw [State.retire_OUT]
    exact effect_OUT_cases he
  · exact .inl (s.raise_OUT _)

theorem exec_readReg {i : Instr} {s t : State} {r : Reg} (h : exec i s = .next t) (hr : writesReg i r = false) :
    readReg t r = readReg s r := by
  obtain ⟨e, he, rfl⟩ | ⟨-, rfl⟩ := exec_next_cases h
  · rw [readReg_retire, effect_readReg he hr]
  · rw [readReg_raise]

theorem exec_CFG {i : Instr} {s t : State} (h : exec i s = .next t) : t.CFG = s.CFG := by
  obtain ⟨e, he, rfl⟩ | ⟨-, rfl⟩ := exec_next_cases h
  · obtain ⟨-, -, -, -, hcfg⟩ := effect_frame he
    rw [State.retire_CFG, hcfg]
  · rw [State.raise_CFG]

/-- Settles O34: the frame of the effect, which neither the count nor a fault entry widens. -/
theorem instructionWritesOnlyWhatTheSpecLists : Obligations.InstructionWritesOnlyWhatTheSpecLists := by
  intro i s t h
  refine ⟨fun r hr => exec_readReg h hr, fun hnotout => ?_, exec_TAPE h, exec_CFG h⟩
  obtain hkept | ⟨o, _, rfl, -⟩ := exec_OUT_cases h
  · exact hkept
  · exact absurd rfl (hnotout o)

theorem step_OUT_prefix {s t : State} (h : step s = .next t) : s.OUT <+: t.OUT := by
  obtain ⟨-, ⟨-, rfl⟩ | ⟨_, _, -, -, rfl⟩ | ⟨_, _, _, -, -, hexec⟩⟩ := step_next_cases h
  · rw [State.halt_OUT]
  · rw [State.raise_OUT]
  · obtain hkept | ⟨_, _, -, -, happend⟩ := exec_OUT_cases hexec
    · rw [hkept]
    · rw [happend]
      exact List.prefix_append _ _

/-- Settles O37: every step extends `OUT`, so every run does; and of the instructions only `out` does so. -/
theorem outputStreamIsAppendOnly : Obligations.OutputStreamIsAppendOnly := by
  constructor
  · intro n s
    exact runFor_keeps (P := fun t => s.OUT <+: t.OUT) (fun h hs => hs.trans (step_OUT_prefix h)) n
      (List.prefix_refl _)
  · intro i s t h hne
    exact (exec_OUT_cases h).resolve_left hne

/-! ### Registers that are not read -/

/-- The two states agree in everything but, perhaps, the value of `r`. -/
def DiffersOnlyIn (r : Reg) (s t : State) : Prop := ∃ x, t = withReg s r x

theorem differsOnlyIn_iff (r : Reg) (s t : State) : DiffersOnlyIn r s t ↔ withReg s r (readReg t r) = t := by
  constructor
  · rintro ⟨x, rfl⟩
    cases r <;> rfl
  · intro h
    exact ⟨_, h.symm⟩

theorem withReg_differsOnlyIn (r : Reg) (s : State) (x : Nat) : DiffersOnlyIn r (withReg s r x) s :=
  ⟨readReg s r, by cases r <;> rfl⟩

section
variable {r : Reg} {s t : State}

theorem readReg_withReg_of_ne {q : Reg} (s : State) (x : Nat) (hq : r ≠ q) :
    readReg (withReg s r x) q = readReg s q := by
  revert hq
  cases r <;> cases q <;> simp [withReg]

theorem DiffersOnlyIn.readReg_eq {q : Reg} (h : DiffersOnlyIn r s t) (hq : r ≠ q) : readReg s q = readReg t q := by
  obtain ⟨x, rfl⟩ := h
  exact (readReg_withReg_of_ne s x hq).symm

theorem DiffersOnlyIn.comboValue_eq {o : ComboOperand} (h : DiffersOnlyIn r s t) (ho : o ≠ .register r) :
    comboValue o s = comboValue o t := by
  cases o with
  | literal v | reserved k => rfl
  | register q => rw [comboValue_register, comboValue_register, h.readReg_eq (fun hrq => ho (by rw [hrq]))]

theorem DiffersOnlyIn.setA (v : Nat) (h : DiffersOnlyIn r s t) : DiffersOnlyIn r (s.setA v) (t.setA v) := by
  obtain ⟨x, rfl⟩ := h
  exact ⟨readReg ((withReg s r x).setA v) r, by cases r <;> rfl⟩

theorem DiffersOnlyIn.setB (v : Nat) (h : DiffersOnlyIn r s t) : DiffersOnlyIn r (s.setB v) (t.setB v) := by
  obtain ⟨x, rfl⟩ := h
  exact ⟨readReg ((withReg s r x).setB v) r, by cases r <;> rfl⟩

theorem DiffersOnlyIn.setC (v : Nat) (h : DiffersOnlyIn r s t) : DiffersOnlyIn r (s.setC v) (t.setC v) := by
  obtain ⟨x, rfl⟩ := h
  exact ⟨readReg ((withReg s r x).setC v) r, by cases r <;> rfl⟩

theorem DiffersOnlyIn.advance (h : DiffersOnlyIn r s t) : DiffersOnlyIn r s.advance t.advance := by
  obtain ⟨x, rfl⟩ := h
  exact ⟨x, by cases r <;> rfl⟩

theorem DiffersOnlyIn.jumpTo (n : Nat) (h : DiffersOnlyIn r s t) : DiffersOnlyIn r (s.jumpTo n) (t.jumpTo n) := by
  obtain ⟨x, rfl⟩ := h
  exact ⟨x, by cases r <;> rfl⟩

theorem DiffersOnlyIn.outAppend (v : OutVal) (h : DiffersOnlyIn r s t) :
    DiffersOnlyIn r (s.outAppend v) (t.outAppend v) := by
  obtain ⟨x, rfl⟩ := h
  exact ⟨x, by cases r <;> rfl⟩

theorem DiffersOnlyIn.raise (c : Cause) (h : DiffersOnlyIn r s t) : DiffersOnlyIn r (s.raise c) (t.raise c) := by
  obtain ⟨x, rfl⟩ := h
  exact ⟨x, by cases r <;> rfl⟩

theorem DiffersOnlyIn.retire (h : DiffersOnlyIn r s t) : DiffersOnlyIn r s.retire t.retire := by
  obtain ⟨x, rfl⟩ := h
  refine ⟨x, ?_⟩
  cases r <;> (simp only [withReg, State.retire_eq, State.countStep]; split <;> rfl)

/-- Both resolve the operand alike and go on from its value, or both find none. -/
theorem DiffersOnlyIn.map_comboValue {o : ComboOperand} {f g : Nat → State} (h : DiffersOnlyIn r s t)
    (ho : o ≠ .register r) (hfg : ∀ v, DiffersOnlyIn r (f v) (g v)) :
    Option.Rel (DiffersOnlyIn r) ((comboValue o s).map f) ((comboValue o t).map g) := by
  rw [h.comboValue_eq ho]
  cases comboValue o t with
  | none => exact .none
  | some v => exact .some (hfg v)

/-- From states that differ in a register the instruction does not read, its effects differ at most there. -/
theorem DiffersOnlyIn.effect {i : Instr} (h : DiffersOnlyIn r s t) (hr : readsReg i r = false) :
    Option.Rel (DiffersOnlyIn r) (effect i s) (effect i t) := by
  cases i with
  | adv o =>
    obtain ⟨hA, ho⟩ : r ≠ .A ∧ o ≠ .register r := by simpa [readsReg] using hr
    have hA : s.A = t.A := h.readReg_eq hA
    exact h.map_comboValue ho fun v => by rw [hA]; exact (h.setA _).advance
  | bdv o =>
    obtain ⟨hA, ho⟩ : r ≠ .A ∧ o ≠ .register r := by simpa [readsReg] using hr
    have hA : s.A = t.A := h.readReg_eq hA
    exact h.map_comboValue ho fun v => by rw [hA]; exact (h.setB _).advance
  | cdv o =>
    obtain ⟨hA, ho⟩ : r ≠ .A ∧ o ≠ .register r := by simpa [readsReg] using hr
    have hA : s.A = t.A := h.readReg_eq hA
    exact h.map_comboValue ho fun v => by rw [hA]; exact (h.setC _).advance
  | bst o => exact h.map_comboValue (of_decide_eq_false hr) fun v => (h.setB _).advance
  | out o => exact h.map_comboValue (of_decide_eq_false hr) fun v => (h.outAppend _).advance
  | bxl k =>
    have hB : s.B = t.B := h.readReg_eq (of_decide_eq_false hr)
    rw [Machine.effect, Machine.effect, hB]
    exact .some (h.setB _).advance
  | bxc k =>
    obtain ⟨hB, hC⟩ : r ≠ .B ∧ r ≠ .C := by simpa [readsReg] using hr
    have hB : s.B = t.B := h.readReg_eq hB
    have hC : s.C = t.C := h.readReg_eq hC
    rw [Machine.effect, Machine.effect, hB, hC]
    exact .some (h.setB _).advance
  | jnz k =>
    have hA : s.A = t.A := h.readReg_eq (of_decide_eq_false hr)
    by_cases hzero : t.A = 0
    · rw [effect_jnz_not_taken k hzero, effect_jnz_not_taken k (hA.trans hzero)]
      exact .some h.advance
    · rw [effect_jnz_taken k hzero, effect_jnz_taken k (hA ▸ hzero)]
      exact .some (h.jumpTo k)

theorem DiffersOnlyIn.exec {i : Instr} {t' : State} (h : DiffersOnlyIn r s t) (hr : readsReg i r = false)
    (ht : exec i t = .next t') : ∃ s', exec i s = .next s' ∧ DiffersOnlyIn r s' t' := by
  have hrel := h.effect hr
  obtain ⟨e, he, rfl⟩ | ⟨hnone, rfl⟩ := exec_next_cases ht
  · rw [he] at hrel
    cases hs : Machine.effect i s with
    | none => rw [hs] at hrel; cases hrel
    | some d =>
      rw [hs] at hrel
      cases hrel with
      | some hde => exact ⟨_, exec_of_effect hs, hde.retire⟩
  · rw [hnone] at hrel
    cases hs : Machine.effect i s with
    | none => exact ⟨_, exec_of_no_effect hs, h.raise _⟩
    | some d => rw [hs] at hrel; cases hrel

end

/-- Settles O35: the state with the other value differs from `s` in that register alone, and so, after an instruction
that does not read it, do the results. -/
theorem instructionDependsOnlyOnTheRegistersItReads : Obligations.InstructionDependsOnlyOnTheRegistersItReads := by
  intro i s t r x hr h
  obtain ⟨t', ht', hdiff⟩ := (withReg_differsOnlyIn r s x).exec hr h
  exact ⟨t', ht', (differsOnlyIn_iff r t' t).mp hdiff⟩

end Sys2Proof.Machine
end

section
/-! On what a step depends beside the registers (`10_state.md` R11, `20_memory.md` R32): of the tape on the fetched
pair, of the parameters on the ceiling. No effect reads either, nor the count. -/

namespace Sys2Proof.Machine

/-- The state with another count, another tape and other parameters: what no effect reads. -/
def State.inContext (s : State) (steps : Nat) (tape : List Nat) (cfg : Config) : State :=
  { s with STEPS := steps, TAPE := tape, CFG := cfg }

section
variable (s : State) (steps : Nat) (tape : List Nat) (cfg : Config)

theorem comboValue_inContext (o : ComboOperand) : comboValue o (s.inContext steps tape cfg) = comboValue o s :=
  comboValue_congr o _ _ rfl rfl rfl

theorem effect_inContext (i : Instr) :
    effect i (s.inContext steps tape cfg) = (effect i s).map (·.inContext steps tape cfg) := by
  cases i with
  | bxl k | bxc k => rfl
  | jnz k =>
    by_cases hA : s.A = 0
    · rw [effect_jnz_not_taken k hA, effect_jnz_not_taken (s := s.inContext steps tape cfg) k hA]
      rfl
    · rw [effect_jnz_taken k hA, effect_jnz_taken (s := s.inContext steps tape cfg) k hA]
      rfl
  | adv o | bst o | out o | bdv o | cdv o =>
    rw [effect, effect, comboValue_inContext, Option.map_map]
    rfl

end

theorem State.retire_inContext {s : State} {cfg : Config} (tape : List Nat)
    (hceiling : cfg.STEP_CEILING = s.CFG.STEP_CEILING) :
    (s.inContext s.STEPS tape cfg).retire = s.retire.inContext s.retire.STEPS tape cfg := by
  by_cases hlt : s.STEPS < s.CFG.STEP_CEILING
  · rw [s.retire_of_lt hlt, State.retire_of_lt (s.inContext s.STEPS tape cfg) (hlt.trans_eq hceiling.symm)]
    rfl
  · have hge := Nat.le_of_not_lt hlt
    rw [s.retire_of_ge hge, State.retire_of_ge (s.inContext s.STEPS tape cfg) (hceiling.trans_le hge)]
    rfl

theorem exec_inContext {i : Instr} {s t : State} {cfg : Config} (tape : List Nat)
    (hceiling : cfg.STEP_CEILING = s.CFG.STEP_CEILING) (h : exec i s = .next t) :
    exec i (s.inContext s.STEPS tape cfg) = .next (t.inContext t.STEPS tape cfg) := by
  have heffect := effect_inContext s s.STEPS tape cfg i
  obtain ⟨e, he, rfl⟩ | ⟨hnone, rfl⟩ := exec_next_cases h
  · obtain ⟨hsteps, -, -, -, hcfg⟩ := effect_frame he
    rw [he, Option.map_some, ← hsteps] at heffect
    rw [← hsteps, exec_of_effect heffect, State.retire_inContext tape (by rw [hceiling, hcfg])]
  · rw [hnone, Option.map_none] at heffect
    exact exec_of_no_effect heffect

/-- With the same pair fetched, or none, and the same ceiling, the step does the same. -/
theorem step_inContext {s t : State} {tape : List Nat} {cfg : Config}
    (hfetch : (s.inContext s.STEPS tape cfg).fetch = s.fetch) (hceiling : cfg.STEP_CEILING = s.CFG.STEP_CEILING)
    (h : step s = .next t) : step (s.inContext s.STEPS tape cfg) = .next (t.inContext t.STEPS tape cfg) := by
  obtain ⟨hrun, hcases⟩ := step_next_cases h
  have hrun' : (s.inContext s.STEPS tape cfg).STATUS = .run := hrun
  obtain ⟨hnone, rfl⟩ | ⟨op, k, hpair, hge, rfl⟩ | ⟨op, k, i, hpair, hd, hexec⟩ := hcases
  · rw [step_of_run hrun', tick_of_none (hfetch.trans hnone)]
    rfl
  · rw [step_of_opcode_ge hrun' (hfetch.trans hpair) hge]
    rfl
  · rw [step_of_run hrun', tick_of_ok (hfetch.trans hpair) hd]
    exact exec_inContext tape hceiling hexec

theorem step_CFG {s t : State} (h : step s = .next t) : t.CFG = s.CFG := by
  obtain ⟨-, ⟨-, rfl⟩ | ⟨_, _, -, -, rfl⟩ | ⟨_, _, _, -, -, hexec⟩⟩ := step_next_cases h
  · rw [State.halt_CFG]
  · rw [State.raise_CFG]
  · exact exec_CFG hexec

/-- Settles O19: either way the fetch from the other tape finds the same. -/
theorem stepReadsNoCellButTheFetchedPair : Obligations.StepReadsNoCellButTheFetchedPair := by
  intro s t tape hsame h
  have hfetch : (s.inContext s.STEPS tape s.CFG).fetch = s.fetch := by
    obtain ⟨hop, hk⟩ | ⟨hend, hend'⟩ := hsame
    · exact State.fetch_congr _ _ hop hk
    · rw [s.fetch_eq_none_iff.mpr hend]
      exact (State.fetch_eq_none_iff _).mpr hend'
  have hstep := step_inContext hfetch rfl h
  rw [← step_CFG h] at hstep
  rwa [← step_CFG h]

/-- Settles O45: the parameters are no part of the fetch, and of them the count reads the ceiling alone. -/
theorem widthsBoundTheLaunchValuesOnly : Obligations.WidthsBoundTheLaunchValuesOnly := by
  intro s t cfg hceiling h
  have hstep := step_inContext (tape := s.TAPE) (cfg := cfg) (State.fetch_congr _ _ rfl rfl) hceiling h
  rw [← step_TAPE h] at hstep
  refine ⟨step_CFG h, ?_⟩
  rwa [← step_TAPE h]

/-- A fault entry after the count writes over everything that the count has written. -/
theorem State.retire_overwritten (s : State) (n : Nat) (c : Cause) :
    { s.retire with STEPS := n, CAUSE := c, STATUS := .faulted } =
      { s with STEPS := n, CAUSE := c, STATUS := .faulted } := by
  by_cases hlt : s.STEPS < s.CFG.STEP_CEILING
  · rw [s.retire_of_lt hlt]
  · rw [s.retire_of_ge (Nat.le_of_not_lt hlt)]

theorem exec_CAUSE_of_lt {i : Instr} {s t : State} (hlt : s.STEPS < s.CFG.STEP_CEILING) (h : exec i s = .next t) :
    t.CAUSE = s.CAUSE ∨ t.CAUSE = .reservedOperand := by
  cases he : effect i s with
  | some e =>
    obtain ⟨-, -, hcause, -⟩ := effect_frame he
    rw [exec_of_effect_of_lt he hlt] at h
    cases h
    exact .inl hcause
  | none =>
    rw [exec_of_no_effect he] at h
    cases h
    exact .inr rfl

/-- Settles O32: the effect from count 0 is the effect from `s` but for the count, and the fault entry writes the rest
of what the count may have written; below the ceiling an instruction enters no fault but `ReservedOperand`. -/
theorem runawayExecutionComesAfterTheWholeEffect : Obligations.RunawayExecutionComesAfterTheWholeEffect := by
  intro i s
  constructor
  · intro t hge h hcount
    have h : exec i (s.inContext 0 s.TAPE s.CFG) = .next t := h
    obtain ⟨e₀, he₀, rfl⟩ := exec_next_of_counted h hcount
    rw [effect_inContext] at he₀
    obtain ⟨e, he, rfl⟩ := Option.map_eq_some_iff.mp he₀
    obtain ⟨-, -, -, htape, hcfg⟩ := effect_frame he
    rw [exec_of_effect_of_ge he hge, State.retire_overwritten, ← htape, ← hcfg]
    rfl
  · intro t hlt hs h
    obtain hkept | hreserved := exec_CAUSE_of_lt hlt h
    · rwa [hkept]
    · simp [hreserved]

end Sys2Proof.Machine
end

section
/-! The outcomes of a tick (`40_tick_and_operands.md` R70): the halt, the two decode faults, or an instruction executed
and counted. -/

namespace Sys2Proof.Machine

/-- A decoded instruction has no effect exactly under a combo opcode with an operand cell of 7 or more (R55, R57). -/
theorem effect_eq_none_iff_of_decode {op k : Nat} {i : Instr} (s : State) (h : decode op k = .ok i) :
    effect i s = none ↔ op ∈ [0, 2, 5, 6, 7] ∧ 7 ≤ k := by
  rcases decode_eq_ok op k i h with
    ⟨rfl, rfl⟩ | ⟨rfl, rfl⟩ | ⟨rfl, rfl⟩ | ⟨rfl, rfl⟩ | ⟨rfl, rfl⟩ | ⟨rfl, rfl⟩ | ⟨rfl, rfl⟩ | ⟨rfl, rfl⟩ <;>
    simp [effect, comboValue_decodeCombo_eq_none_iff]

/-- Inversion of `step`, down to the effect of the instruction. -/
theorem step_next_outcomes {s t : State} (h : step s = .next t) :
    s.STATUS = .run ∧
      ((s.fetch = none ∧ t = s.halt) ∨
       (∃ op k, s.fetch = some (op, k) ∧ 8 ≤ op ∧ t = s.raise .invalidOpcode) ∨
       (∃ op k, s.fetch = some (op, k) ∧ (op ∈ [0, 2, 5, 6, 7] ∧ 7 ≤ k) ∧ t = s.raise .reservedOperand) ∨
       (∃ op k i e, s.fetch = some (op, k) ∧ decode op k = .ok i ∧ effect i s = some e ∧ t = e.retire)) := by
  obtain ⟨hrun, hhalt | hinvalid | ⟨op, k, i, hfetch, hd, hexec⟩⟩ := step_next_cases h
  · exact ⟨hrun, .inl hhalt⟩
  · exact ⟨hrun, .inr (.inl hinvalid)⟩
  · obtain ⟨e, he, ht⟩ | ⟨hnone, ht⟩ := exec_next_cases hexec
    · exact ⟨hrun, .inr (.inr (.inr ⟨op, k, i, e, hfetch, hd, he, ht⟩))⟩
    · exact ⟨hrun, .inr (.inr (.inl ⟨op, k, hfetch, (effect_eq_none_iff_of_decode s hd).mp hnone, ht⟩))⟩

/-- Settles O14: the fetch finds the pair, and the tick is `exec` of what it decodes to. -/
theorem stepRunsTheDecodedInstruction : Obligations.StepRunsTheDecodedInstruction := by
  intro s op k i hrun hop hk hd
  rw [step_of_run hrun, tick_of_ok ((s.fetch_eq_some_iff op k).mpr ⟨hop, hk⟩) hd]

/-- Settles O17: each branch of the tick answers a next state. -/
theorem runningMachineAlwaysHasANextState : Obligations.RunningMachineAlwaysHasANextState := fun _ hrun =>
  exists_step_of_run hrun

theorem runFor_of_ended {s : State} (h : s.STATUS ≠ .run) (n : Nat) : runFor n s = s := by
  cases n with
  | zero => rfl
  | succ n =>
    cases hs : s.STATUS with
    | run => exact absurd hs h
    | halted => rw [runFor, step_of_halted hs]
    | faulted => rw [runFor, step_of_faulted hs]

/-- Settles O18: the step of an ended run is one of the two fault outcomes, at which `runFor` stops. -/
theorem noStepAfterTheRunHasEnded : Obligations.NoStepAfterTheRunHasEnded := fun _ =>
  ⟨step_of_halted, step_of_faulted, runFor_of_ended⟩

/-- Settles O16: the outcome of the tick in each of the five cases, taken in the order of the checks. -/
theorem tickChecksComeInTheSpecsOrder : Obligations.TickChecksComeInTheSpecsOrder := by
  intro s t hrun hcause h
  constructor
  · intro hend
    rw [step_of_no_pair hrun hend] at h
    cases h
    exact ⟨rfl, hcause, rfl⟩
  · intro op k hop hk
    have hfetch : s.fetch = some (op, k) := (s.fetch_eq_some_iff op k).mpr ⟨hop, hk⟩
    split
    case isTrue hinvalid =>
      rw [step_of_opcode_ge hrun hfetch hinvalid] at h
      cases h
      exact ⟨rfl, rfl, rfl⟩
    case isFalse hvalid =>
      obtain ⟨i, hd⟩ := exists_decode_of_lt k (Nat.lt_of_not_le hvalid)
      rw [step_of_run hrun, tick_of_ok hfetch hd] at h
      split
      case isTrue hreserved =>
        rw [exec_of_no_effect ((effect_eq_none_iff_of_decode s hd).mpr hreserved)] at h
        cases h
        exact ⟨rfl, rfl, rfl⟩
      case isFalse hlegal =>
        obtain ⟨e, he⟩ := Option.ne_none_iff_exists'.mp (hlegal ∘ (effect_eq_none_iff_of_decode s hd).mp)
        split
        case isTrue hceiling =>
          rw [exec_of_effect_of_ge he hceiling] at h
          cases h
          exact ⟨rfl, rfl, rfl⟩
        case isFalse hbelow =>
          obtain ⟨-, hstatus, hcause', -⟩ := effect_frame he
          rw [exec_of_effect_of_lt he (Nat.lt_of_not_le hbelow)] at h
          cases h
          exact ⟨hstatus.trans hrun, hcause'.trans hcause, rfl⟩

/-- Settles O33: of the four outcomes of a tick the first three are the exceptions, and the last counts and is none of
them. -/
theorem stepsCountsExecutedInstructionsOnly : Obligations.StepsCountsExecutedInstructionsOnly := by
  intro s t hcause h
  obtain ⟨hrun, ⟨-, rfl⟩ | ⟨_, _, -, -, rfl⟩ | ⟨_, _, -, -, rfl⟩ | ⟨_, _, i, e, -, -, he, rfl⟩⟩ := step_next_outcomes h
  · rw [if_pos (by simp), State.halt_STEPS]
  · rw [if_pos (by simp), State.raise_STEPS]
  · rw [if_pos (by simp), State.raise_STEPS]
  · obtain ⟨hsteps, hstatus, hcause', -⟩ := effect_frame he
    have hexecuted :
        ¬ (e.retire.STATUS = .halted ∨ e.retire.CAUSE = .invalidOpcode ∨ e.retire.CAUSE = .reservedOperand) := by
      obtain ⟨hc, hs⟩ | ⟨hc, hs⟩ := e.retire_cause
      · simp [hc, hs, hstatus, hcause', hrun, hcause]
      · simp [hc, hs]
    rw [if_neg hexecuted, State.retire_STEPS, hsteps]

/-- Settles O21: the tape stays well formed since it stays, and a cell of a well-formed tape is below 8. -/
theorem wellFormedTapeNeverRaisesInvalidOpcode : Obligations.WellFormedTapeNeverRaisesInvalidOpcode := by
  intro n s htape hcause
  have hkept : (runFor n s).TAPE = s.TAPE ∧ (runFor n s).CAUSE ≠ .invalidOpcode := by
    refine runFor_keeps (P := fun t => t.TAPE = s.TAPE ∧ t.CAUSE ≠ .invalidOpcode) ?_ n ⟨rfl, hcause⟩
    rintro t u hstep ⟨htu, ht⟩
    refine ⟨(step_TAPE hstep).trans htu, fun hu => ?_⟩
    obtain ⟨op, k, hfetch, hge⟩ := step_raises_invalidOpcode ht hstep hu
    obtain ⟨hop, -⟩ := (t.fetch_eq_some_iff op k).mp hfetch
    rw [htu] at hop
    have hle : op ≤ 7 := of_decide_eq_true (List.all_eq_true.mp htape op (List.mem_of_getElem? hop))
    omega
  exact hkept.2

end Sys2Proof.Machine
end

section
/-! The invariant (`10_state.md` R11, R15 to R20, `60_exceptions.md` R120), in two halves: every quantity is in its
range, and `STATUS`, `CAUSE` and the count stand in one of five ways together. -/

namespace Sys2Proof.Machine

/-- The clauses of the invariant on the ranges of quantities. -/
structure State.InRange (s : State) : Prop where
  cfg_ok : 3 ≤ s.CFG.CELLW ∧ s.CFG.CELLW ≤ s.CFG.REGW
  reg_lt : ∀ r : Reg, readReg s r < 2 ^ s.CFG.REGW
  cell_lt : ∀ c ∈ s.TAPE, c < 2 ^ s.CFG.CELLW
  out_le : s.OUT.length ≤ s.STEPS
  pc_le : s.pc ≤ max s.TAPE.length (2 ^ s.CFG.CELLW - 1)

/-- The clauses of the invariant on the control of a run: where a run can stand, and with what count (R17, R18, R71,
R75, R120). -/
inductive State.Control (s : State) : Prop where
  | running (status : s.STATUS = .run) (cause : s.CAUSE = .none) (steps : s.STEPS ≤ s.CFG.STEP_CEILING)
  | halted (status : s.STATUS = .halted) (cause : s.CAUSE = .none) (steps : s.STEPS ≤ s.CFG.STEP_CEILING)
      (at_end : s.TAPE.length ≤ s.pc + 1)
  | invalidOpcode (status : s.STATUS = .faulted) (cause : s.CAUSE = .invalidOpcode)
      (steps : s.STEPS ≤ s.CFG.STEP_CEILING) (at_pc : ∃ op k, s.pairAt op k ∧ 8 ≤ op)
  | reservedOperand (status : s.STATUS = .faulted) (cause : s.CAUSE = .reservedOperand)
      (steps : s.STEPS ≤ s.CFG.STEP_CEILING) (at_pc : ∃ op k, s.pairAt op k ∧ op ∈ [0, 2, 5, 6, 7] ∧ 7 ≤ k)
  | runawayExecution (status : s.STATUS = .faulted) (cause : s.CAUSE = .runawayExecution)
      (steps : s.STEPS = s.CFG.STEP_CEILING + 1)

theorem State.Inv.inRange {s : State} (h : s.Inv) : s.InRange :=
  ⟨h.cfg_ok, h.reg_lt, h.cell_lt, h.out_le, h.pc_le⟩

theorem State.Inv.control {s : State} (h : s.Inv) : s.Control := by
  by_cases hfaulted : s.STATUS = .faulted
  · cases hcause : s.CAUSE with
    | none => exact absurd hfaulted (h.cause_none.mp hcause)
    | invalidOpcode =>
      exact .invalidOpcode hfaulted hcause (h.steps_decode_fault (.inl hcause)) (h.invalid_at_pc hcause)
    | reservedOperand =>
      exact .reservedOperand hfaulted hcause (h.steps_decode_fault (.inr hcause)) (h.reserved_at_pc hcause)
    | runawayExecution => exact .runawayExecution hfaulted hcause (h.steps_runaway hcause)
  · have hcause := h.cause_none.mpr hfaulted
    cases hstatus : s.STATUS with
    | run => exact .running hstatus hcause (h.steps_le hfaulted)
    | halted => exact .halted hstatus hcause (h.steps_le hfaulted) (h.halted_at_end hstatus)
    | faulted => exact absurd hstatus hfaulted

theorem State.InRange.inv {s : State} (h : s.InRange) (hcontrol : s.Control) : s.Inv := by
  obtain ⟨hcfg, hreg, hcell, hout, hpc⟩ := h
  cases hcontrol with
  | running hstatus hcause hsteps =>
    refine ⟨hcfg, hreg, hcell, ?_, ?_, ?_, ?_, hout, hpc, ?_, ?_, ?_⟩ <;> simp [hstatus, hcause, hsteps]
  | halted hstatus hcause hsteps hend =>
    refine ⟨hcfg, hreg, hcell, ?_, ?_, ?_, ?_, hout, hpc, ?_, ?_, ?_⟩ <;> simp [hstatus, hcause, hsteps, hend]
  | invalidOpcode hstatus hcause hsteps hpair =>
    refine ⟨hcfg, hreg, hcell, ?_, ?_, ?_, ?_, hout, hpc, ?_, fun _ => hpair, ?_⟩ <;> simp [hstatus, hcause, hsteps]
  | reservedOperand hstatus hcause hsteps hpair =>
    refine ⟨hcfg, hreg, hcell, ?_, ?_, ?_, ?_, hout, hpc, ?_, ?_, fun _ => hpair⟩ <;> simp [hstatus, hcause, hsteps]
  | runawayExecution hstatus hcause hsteps =>
    refine ⟨hcfg, hreg, hcell, ?_, ?_, ?_, ?_, hout, hpc, ?_, ?_, ?_⟩ <;> simp [hstatus, hcause, hsteps]

theorem State.Inv.control_of_run {s : State} (h : s.Inv) (hrun : s.STATUS = .run) :
    s.CAUSE = .none ∧ s.STEPS ≤ s.CFG.STEP_CEILING := by
  have hnot : s.STATUS ≠ .faulted := by simp [hrun]
  exact ⟨h.cause_none.mpr hnot, h.steps_le hnot⟩

/-! ### Launch -/

theorem launched_Inv {cfg : Config} {tape : List Nat} {a b c : Nat} (hcfg : 3 ≤ cfg.CELLW ∧ cfg.CELLW ≤ cfg.REGW)
    (ha : a < 2 ^ cfg.REGW) (hb : b < 2 ^ cfg.REGW) (hc : c < 2 ^ cfg.REGW) (htape : ∀ x ∈ tape, x < 2 ^ cfg.CELLW) :
    (State.launched cfg tape a b c).Inv := by
  have hrange : (State.launched cfg tape a b c).InRange :=
    ⟨hcfg, fun r => by cases r <;> assumption, htape, Nat.le_refl 0, Nat.zero_le _⟩
  exact hrange.inv (.running rfl rfl (Nat.zero_le _))

/-- Settles O10: a launched state within the bounds meets the invariant, and reset is one. -/
theorem launchedStatesMeetTheInvariant : Obligations.LaunchedStatesMeetTheInvariant := by
  constructor
  · rw [State.reset_eq]
    exact launched_Inv (by decide) (by decide) (by decide) (by decide) (by decide)
  · intro cfg l s h
    obtain ⟨hcfg, ⟨-, hA⟩, ⟨-, hB⟩, ⟨-, hC⟩, hcells, -, rfl⟩ := launch_next_cases h
    exact launched_Inv hcfg hA hB hC hcells

/-! ### Executed instructions keep the ranges -/

section
variable {s : State} {v b : Nat}

theorem readReg_setA_lt (hs : ∀ r, readReg s r < b) (hv : v < b) (r : Reg) : readReg (s.setA v) r < b := by
  by_cases h : r = .A
  · rw [h]; exact hv
  · rw [readReg_setA_of_ne s v h]; exact hs r

theorem readReg_setB_lt (hs : ∀ r, readReg s r < b) (hv : v < b) (r : Reg) : readReg (s.setB v) r < b := by
  by_cases h : r = .B
  · rw [h]; exact hv
  · rw [readReg_setB_of_ne s v h]; exact hs r

theorem readReg_setC_lt (hs : ∀ r, readReg s r < b) (hv : v < b) (r : Reg) : readReg (s.setC v) r < b := by
  by_cases h : r = .C
  · rw [h]; exact hv
  · rw [readReg_setC_of_ne s v h]; exact hs r

end

/-- No effect makes a register wider than the registers and the instruction's literal were (R11). -/
theorem effect_readReg_lt {i : Instr} {s e : State} {w : Nat} (hw : 3 ≤ w) (hfits : i.fits w = true)
    (hs : ∀ r, readReg s r < 2 ^ w) (he : effect i s = some e) (r : Reg) : readReg e r < 2 ^ w := by
  have hshift (n : Nat) : shiftRight s.A n < 2 ^ w := (shiftRight_le s.A n).trans_lt (hs .A)
  cases i with
  | adv o =>
    obtain ⟨v, -, rfl⟩ := Option.map_eq_some_iff.mp he
    rw [readReg_advance]
    exact readReg_setA_lt hs (hshift v) r
  | bdv o =>
    obtain ⟨v, -, rfl⟩ := Option.map_eq_some_iff.mp he
    rw [readReg_advance]
    exact readReg_setB_lt hs (hshift v) r
  | cdv o =>
    obtain ⟨v, -, rfl⟩ := Option.map_eq_some_iff.mp he
    rw [readReg_advance]
    exact readReg_setC_lt hs (hshift v) r
  | bst o =>
    obtain ⟨v, -, rfl⟩ := Option.map_eq_some_iff.mp he
    rw [readReg_advance]
    have hmod : mod8Word v < 2 ^ w := (mod8Word_lt v).trans_le (Nat.pow_le_pow_right (n := 2) (by decide) hw)
    exact readReg_setB_lt hs hmod r
  | bxl k =>
    cases he
    rw [readReg_advance]
    have hxor : s.B ^^^ k < 2 ^ w := Nat.xor_lt_two_pow (hs .B) (of_decide_eq_true hfits)
    exact readReg_setB_lt hs hxor r
  | bxc k =>
    cases he
    rw [readReg_advance]
    have hxor : s.B ^^^ s.C < 2 ^ w := Nat.xor_lt_two_pow (hs .B) (hs .C)
    exact readReg_setB_lt hs hxor r
  | jnz k | out o =>
    rw [effect_readReg he rfl]
    exact hs r

/-- Where an executed instruction leaves `pc`: past the pair it stood at, or at the literal of a `jnz` (R15). -/
theorem effect_pc_le {i : Instr} {s e : State} (hpair : s.pc + 1 < s.TAPE.length)
    (hfits : i.fits s.CFG.CELLW = true) (he : effect i s = some e) :
    e.pc ≤ max s.TAPE.length (2 ^ s.CFG.CELLW - 1) := by
  obtain hadvance | ⟨k, rfl, -, hjump⟩ := effect_pc he
  · omega
  · have hk : k < 2 ^ s.CFG.CELLW := of_decide_eq_true hfits
    omega

theorem effect_OUT_length_le {i : Instr} {s e : State} (he : effect i s = some e) :
    e.OUT.length ≤ s.OUT.length + 1 := by
  obtain hkept | ⟨v, happend⟩ := effect_OUT he
  · rw [hkept]
    exact Nat.le_succ _
  · rw [happend, List.length_append, List.length_singleton]

theorem State.InRange.retire_effect {s e : State} {op k : Nat} {i : Instr} (h : s.InRange)
    (hfetch : s.fetch = some (op, k)) (hd : decode op k = .ok i) (he : effect i s = some e) : e.retire.InRange := by
  obtain ⟨hcfg, hreg, hcell, hout, -⟩ := h
  obtain ⟨hsteps, -, -, htape, hcfg'⟩ := effect_frame he
  obtain ⟨-, hk⟩ := (s.fetch_eq_some_iff op k).mp hfetch
  have hcellk : k < 2 ^ s.CFG.CELLW := hcell k (List.mem_of_getElem? hk)
  have hregk : k < 2 ^ s.CFG.REGW := hcellk.trans_le (Nat.pow_le_pow_right (by decide) hcfg.2)
  constructor
  case cfg_ok => rwa [State.retire_CFG, hcfg']
  case reg_lt =>
    intro r
    rw [readReg_retire, State.retire_CFG, hcfg']
    exact effect_readReg_lt (hcfg.1.trans hcfg.2) (fits_of_decode hd hregk) hreg he r
  case cell_lt => rwa [State.retire_TAPE, State.retire_CFG, htape, hcfg']
  case out_le =>
    rw [State.retire_OUT, State.retire_STEPS, hsteps]
    exact (effect_OUT_length_le he).trans (Nat.succ_le_succ hout)
  case pc_le =>
    rw [State.retire_pc, State.retire_TAPE, State.retire_CFG, htape, hcfg']
    exact effect_pc_le (List.getElem?_eq_some_iff.mp hk).1 (fits_of_decode hd hcellk) he

theorem State.InRange.halt {s : State} (h : s.InRange) : s.halt.InRange :=
  ⟨h.cfg_ok, fun r => by simpa using h.reg_lt r, h.cell_lt, h.out_le, h.pc_le⟩

theorem State.InRange.raise {s : State} (c : Cause) (h : s.InRange) : (s.raise c).InRange :=
  ⟨h.cfg_ok, fun r => by simpa using h.reg_lt r, h.cell_lt, h.out_le, h.pc_le⟩

/-! ### Every step keeps the invariant -/

theorem State.pairAt_of_fetch {s : State} {op k : Nat} (h : s.fetch = some (op, k)) : s.pairAt op k :=
  (s.fetch_eq_some_iff op k).mp h

/-- The count of an instruction executed within the ceiling leaves the run in progress or ends it one above. -/
theorem State.Control.retire {s : State} (hrun : s.STATUS = .run) (hcause : s.CAUSE = .none)
    (hsteps : s.STEPS ≤ s.CFG.STEP_CEILING) : s.retire.Control := by
  by_cases hlt : s.STEPS < s.CFG.STEP_CEILING
  · rw [s.retire_of_lt hlt]
    exact .running hrun hcause hlt
  · have heq : s.STEPS = s.CFG.STEP_CEILING := by omega
    rw [s.retire_of_ge heq.ge]
    exact .runawayExecution rfl rfl (congrArg (· + 1) heq)

theorem step_Inv {s t : State} (hinv : s.Inv) (h : step s = .next t) : t.Inv := by
  obtain ⟨hrun, houtcome⟩ := step_next_outcomes h
  obtain ⟨hcause, hsteps⟩ := hinv.control_of_run hrun
  obtain ⟨hnone, rfl⟩ | ⟨op, k, hfetch, hge, rfl⟩ | ⟨op, k, hfetch, hreserved, rfl⟩ |
    ⟨op, k, i, e, hfetch, hd, he, rfl⟩ := houtcome
  · exact hinv.inRange.halt.inv (.halted rfl hcause hsteps (s.fetch_eq_none_iff.mp hnone))
  · exact (hinv.inRange.raise _).inv (.invalidOpcode rfl rfl hsteps ⟨op, k, s.pairAt_of_fetch hfetch, hge⟩)
  · exact (hinv.inRange.raise _).inv (.reservedOperand rfl rfl hsteps ⟨op, k, s.pairAt_of_fetch hfetch, hreserved⟩)
  · obtain ⟨hsteps', hstatus, hcause', -, hcfg⟩ := effect_frame he
    exact (hinv.inRange.retire_effect hfetch hd he).inv
      (.retire (hstatus.trans hrun) (hcause'.trans hcause) (by rwa [hsteps', hcfg]))

/-- Settles O11: of the four outcomes of a tick the first three change only the control, and the last keeps every
range. -/
theorem stepKeepsTheInvariant : Obligations.StepKeepsTheInvariant := fun _ _ => step_Inv

theorem runFor_Inv {s : State} (n : Nat) (h : s.Inv) : (runFor n s).Inv :=
  runFor_keeps (P := State.Inv) (fun hstep hs => step_Inv hs hstep) n h

/-- Settles O12: a run does not end running, and the invariant leaves four ways to stand otherwise. -/
theorem everyRunEndsInOneOfFourWays : Obligations.EveryRunEndsInOneOfFourWays := by
  intro s h
  have hinv : (run s).Inv := runFor_Inv _ h
  cases hinv.control with
  | running hstatus => exact absurd hstatus (run_ended s)
  | halted hstatus hcause => exact .inl ⟨hstatus, hcause⟩
  | invalidOpcode hstatus hcause => exact .inr ⟨hstatus, .inl hcause⟩
  | reservedOperand hstatus hcause => exact .inr ⟨hstatus, .inr (.inl hcause)⟩
  | runawayExecution hstatus hcause => exact .inr ⟨hstatus, .inr (.inr hcause)⟩

/-! ### The widths of the counters -/

theorem widthOf_le_iff (n w : Nat) : Config.widthOf n ≤ w ↔ n < 2 ^ w := by
  by_cases hn : n = 0
  · simp [Config.widthOf, hn]
  · rw [Config.widthOf, if_neg hn, Nat.succ_le_iff, Nat.log2_lt hn]

theorem lt_two_pow_widthOf (n : Nat) : n < 2 ^ Config.widthOf n := (widthOf_le_iff n _).mp (Nat.le_refl _)

theorem State.Inv.steps_le_succ {s : State} (h : s.Inv) : s.STEPS ≤ s.CFG.STEP_CEILING + 1 := by
  cases h.control <;> omega

/-- Settles O44: `widthOf` is the least width, and the invariant keeps each counter at or below the value whose width
it has. -/
theorem countersFitTheLeastWidths : Obligations.CountersFitTheLeastWidths := by
  refine ⟨widthOf_le_iff, fun s h => ⟨?_, ?_, ?_⟩⟩
  · exact h.steps_le_succ.trans_lt (lt_two_pow_widthOf _)
  · exact h.pc_le.trans_lt (lt_two_pow_widthOf _)
  · exact h.out_le.trans h.steps_le_succ

end Sys2Proof.Machine
end

section
/-! The host-side search (`70_reset_and_hazards.md` R150 to R156) answers only with a candidate it has run. -/

namespace Sys2Proof.Machine

section
variable {candidate : Nat → Option HostResult} {p : SearchParams}

theorem tryFrom_found {suffix : List Nat} {fuel a₀ a : Nat} (h : tryFrom candidate p suffix fuel a₀ = .found a) :
    ∃ vs, candidate a = some (.output vs) ∧ vs.map BitVec.toNat = suffix := by
  induction fuel generalizing a₀ with
  | zero => cases h
  | succ fuel ih =>
    rw [tryFrom] at h
    split at h
    case h_1 => cases h
    case h_2 vs hvs =>
      split at h
      case isTrue hsuffix => cases h; exact ⟨vs, hvs, hsuffix⟩
      case isFalse => exact ih h
    case h_3 =>
      split at h
      case h_1 => cases h
      case h_2 => exact ih h

/-- Whatever the base of a level, its answer comes from the level's own brute force. -/
theorem solve_found {suffix : List Nat} {a : Nat} (h : solve candidate p suffix = .found a) :
    ∃ vs, candidate a = some (.output vs) ∧ vs.map BitVec.toNat = suffix := by
  cases suffix with
  | nil => exact tryFrom_found h
  | cons x rest =>
    rw [solve] at h
    split at h
    · exact tryFrom_found h
    · split at h
      case h_1 => exact tryFrom_found h
      all_goals cases h

end

/-- Settles O43: the search for the whole program is the last level of `solve`. -/
theorem reproducerAnswersReproduceTheProgram : Obligations.ReproducerAnswersReproduceTheProgram :=
  fun _ _ _ _ _ _ h => solve_found h

end Sys2Proof.Machine
end
